-- ==== Sys2Proof/Word.lean ====
section
/-! DEFINITION. The word types of the Base64 word codec (00_scope.md R5, R6).

All values are unsigned bit vectors. The spec's slice `x[hi:lo]` is `x.extractLsb' lo (hi - lo + 1)`, and its
concatenation with the first part more significant is `++`. -/

namespace Sys2Proof

/-- A byte of the binary side, 8 bits (R5). -/
abbrev Byte := BitVec 8

/-- A character code of the text side, 8 bits (R5, D5). -/
abbrev Character := BitVec 8

/-- A 6-bit value 0..63, the index of a symbol in the alphabet (R5). -/
abbrev Sextet := BitVec 6

/-- The 24 input bits of one group (R32). -/
abbrev Group24 := BitVec 24

/-- A request word, 36 bits (R50). -/
abbrev Request := BitVec 36

/-- A response word, 34 bits (R51). -/
abbrev Response := BitVec 34

end Sys2Proof
end

