-- ==== Sys2Proof/Syntax.lean ====
section
/-! DEFINITION. The operations of the block, one constructor per row of spec/opcode_table.json (30_encoding.md R52).

The bits an operation ignores (R57) are no part of it. -/

namespace Sys2Proof

/-- One operation with its operands (R54, R55). -/
inductive Instr where
  /-- `ENCW b0, b1, b2`: encode one full, non-final group (R82). -/
  | encw (b0 b1 b2 : Byte)
  /-- `ENCWF k, b0, b1, b2`: encode the final group, `k` of whose bytes are real (R83). -/
  | encwf (k : BitVec 2) (b0 b1 b2 : Byte)
  /-- `DECW c0, c1, c2, c3`: decode one group of four characters (R101). -/
  | decw (c0 c1 c2 c3 : Character)
  deriving DecidableEq, Repr

end Sys2Proof
end

