-- ==== Sys2Proof/WellFormed.lean ====
section
/-! DEFINITION. Which operations the host may issue (30_encoding.md R56, R58, R59).

The one check is the real-byte count of `ENCWF`. Every data value is legal (R59). -/

namespace Sys2Proof

/-- The operation is not the reserved one: `ENCWF` has a count of 1, 2 or 3 (R56, R58). -/
def Instr.wellFormed : Instr → Bool
  | .encw _ _ _ => true
  | .encwf k _ _ _ => k != 0
  | .decw _ _ _ _ => true

/-- `Instr.wellFormed` as a proposition. -/
abbrev WellFormed (i : Instr) : Prop := i.wellFormed = true

end Sys2Proof
end

