-- ==== Sys2Proof/Decode.lean ====
section
/-! DEFINITION. From request words to operations and back (30_encoding.md sections 1 to 5).

Selecting the operation is total on 36-bit words (R52); a number that is no 36-bit word is rejected by name. The
reserved request (R58) selects `ENCWF` with count 0, which is not well-formed and which its meaning refuses. -/

namespace Sys2Proof

/-! ### Fields of the request word (R50) -/

/-- `op`, bit 35: 0 encodes, 1 decodes. -/
def reqOp (r : Request) : BitVec 1 := r.extractLsb' 35 1

/-- `final`, bit 34. -/
def reqFinal (r : Request) : BitVec 1 := r.extractLsb' 34 1

/-- `nreal`, bits 33:32. -/
def reqNreal (r : Request) : BitVec 2 := r.extractLsb' 32 2

/-- The data byte in bits 31:24: `c0` of a decode request, ignored by an encode request. -/
def reqByte3 (r : Request) : Byte := r.extractLsb' 24 8

/-- The data byte in bits 23:16: `b0` or `c1`. -/
def reqByte2 (r : Request) : Byte := r.extractLsb' 16 8

/-- The data byte in bits 15:8: `b1` or `c2`. -/
def reqByte1 (r : Request) : Byte := r.extractLsb' 8 8

/-- The data byte in bits 7:0: `b2` or `c3`. -/
def reqByte0 (r : Request) : Byte := r.extractLsb' 0 8

/-! ### Decoding -/

/-- Selects the operation of a request word and assembles its operands (R52, R54, R55). -/
def decode (r : Request) : Instr :=
  if reqOp r = 1 then .decw (reqByte3 r) (reqByte2 r) (reqByte1 r) (reqByte0 r)
  else if reqFinal r = 1 then .encwf (reqNreal r) (reqByte2 r) (reqByte1 r) (reqByte0 r)
  else .encw (reqByte2 r) (reqByte1 r) (reqByte0 r)

/-- Why a number is no request. -/
inductive DecodeReject where
  /-- The number has a bit set above bit 35, and every request is exactly 36 bits (R60). Safe. -/
  | widerThanRequest
  deriving DecidableEq, Repr

/-- Decodes any number: its 36-bit word's operation, or the rejection of a number that is no 36-bit word. -/
def decodeNumber (w : Nat) : Except DecodeReject Instr :=
  if w < 2 ^ 36 then .ok (decode (BitVec.ofNat 36 w)) else .error .widerThanRequest

/-- The decoder's answer for an instruction of `nbits` bits given as the number `w`, bit 0 the least significant bit
of the request word; the bits from `nbits` up are 0. -/
def decodeTableWord (nbits w : Nat) : Option Instr :=
  match decodeNumber (w % 2 ^ nbits) with
  | .ok i => some i
  | .error _ => none

/-! ### Encoding (R50, R61: the assembler writes 0 into every ignored field) -/

/-- A request word from its fields (R50). -/
def packRequest (op final : BitVec 1) (nreal : BitVec 2) (d3 d2 d1 d0 : Byte) : Request :=
  op ++ final ++ nreal ++ d3 ++ d2 ++ d1 ++ d0

/-- The request word of an operation (R61). -/
def encode : Instr → Request
  | .encw b0 b1 b2 => packRequest 0 0 0 0 b0 b1 b2
  | .encwf k b0 b1 b2 => packRequest 0 1 k 0 b0 b1 b2
  | .decw c0 c1 c2 c3 => packRequest 1 0 0 c0 c1 c2 c3

/-! ### Pseudo-operations (R62) -/

/-- `ENCW1 b0` expands to `ENCWF 1, b0, 0x00, 0x00` (R62). -/
def pseudoEncw1 (b0 : Byte) : Instr := .encwf 1 b0 0 0

/-- `ENCW2 b0, b1` expands to `ENCWF 2, b0, b1, 0x00` (R62). -/
def pseudoEncw2 (b0 b1 : Byte) : Instr := .encwf 2 b0 b1 0

end Sys2Proof
end

