-- ==== Sys2Proof/Machine/State.lean ====
section
/-! DEFINITION. The state of the machine, the reasons a step can stop, and the machine after reset.

The block holds no mutable state (10_state.md R10). Its ROMs are constants and no field of a state (R20); its two
ports are not state (R18), and Machine/Ports.lean gives them as views. What is left is the host's: the list of
requests it issues (R12, R20, 70_reset_and_hazards.md R182) and the responses it has taken. Log entry 1. -/

namespace Sys2Proof.Machine

/-- The host's data that one run of the block goes through (R12, R20, R182). DESIGN CHOICE, log entry 1. -/
structure State where
  /-- The requests not yet answered, the next first; the first one is the word presented on `req` (R17). -/
  pending : List Request
  /-- The requests already answered, oldest first. -/
  issued : List Request
  /-- The responses taken, oldest first, one for each issued request, in request order (R181). -/
  responses : List Response
  deriving DecidableEq, Repr

/-- The block never traps, faults, hangs or stalls, so there is no fault (60_exceptions.md R150, R162). -/
inductive Fault where
  deriving DecidableEq, Repr

/-- Why a request is given no meaning. -/
inductive Refusal where
  /-- Raised only by an arm of `exec` whose instruction has no meaning yet; no arm is left so. Safe. -/
  | notModelled (mnemonic : String)
  /-- Raised by `ENCWF` with a real-byte count of 0, the one reserved request, for which the spec defines no response
  and asks a model to refuse (30_encoding.md R58, 60_exceptions.md R162). Safe: nothing can be proved of a host that
  issues it. -/
  | reservedRealByteCount
  deriving DecidableEq, Repr

/-- The machine after power-on: no request issued yet (70_reset_and_hazards.md R170; log entry 1). -/
def State.reset : State where
  pending := []
  issued := []
  responses := []

end Sys2Proof.Machine
end

