-- ==== Sys2Proof/Machine/Operands.lean ====
section
/-! DEFINITION. Assembling and splitting the data of one word: the 24-bit group, its four 6-bit groups, the inverse
packing, and the lanes of a response (20_memory.md R32, R33; 41_word_encoder.md R80; 42_word_decoder.md R104). -/

namespace Sys2Proof.Machine

/-- The 24 input bits of a group: the first byte most significant (R32, R54). -/
def group24 (b0 b1 b2 : Byte) : Group24 := b0 ++ b1 ++ b2

/-! ### The bit-shuffler (R80) -/

/-- Group 0, `w[23:18]`. -/
def sextet0 (w : Group24) : Sextet := w.extractLsb' 18 6

/-- Group 1, `w[17:12]`. -/
def sextet1 (w : Group24) : Sextet := w.extractLsb' 12 6

/-- Group 2, `w[11:6]`. -/
def sextet2 (w : Group24) : Sextet := w.extractLsb' 6 6

/-- Group 3, `w[5:0]`. -/
def sextet3 (w : Group24) : Sextet := w.extractLsb' 0 6

/-! ### The inverse bit-packing, in the document's shifts and masks on 8-bit values (R101 lines 2, 5 and 8) -/

/-- The first byte: `(v0 << 2) | (v1 >> 4)`. -/
def byte0 (v0 v1 : Byte) : Byte := (v0 <<< 2) ||| (v1 >>> 4)

/-- The second byte: `((v1 & 0x0F) << 4) | (v2 >> 2)`. -/
def byte1 (v1 v2 : Byte) : Byte := ((v1 &&& 0x0F) <<< 4) ||| (v2 >>> 2)

/-- The third byte: `((v2 & 0x03) << 6) | v3`. -/
def byte2 (v2 v3 : Byte) : Byte := ((v2 &&& 0x03) <<< 6) ||| v3

/-! ### Response lanes (R51) -/

/-- The 32 data bits of a response, its first lane most significant (R33, R34, R51). -/
def lanes (x3 x2 x1 x0 : Byte) : BitVec 32 := x3 ++ x2 ++ x1 ++ x0

/-- A response word from its count and its data (R51). -/
def packResponse (n : BitVec 2) (q : BitVec 32) : Response := n ++ q

/-- `rsp.q`, bits 31:0. -/
def rspQ (p : Response) : BitVec 32 := p.extractLsb' 0 32

/-- The lane `q[31:24]`: `s0` of an encode response, 0x00 in a decode response. -/
def rspLane3 (p : Response) : Byte := p.extractLsb' 24 8

/-- The lane `q[23:16]`: `s1` or `y0`. -/
def rspLane2 (p : Response) : Byte := p.extractLsb' 16 8

/-- The lane `q[15:8]`: `s2` or `y1`. -/
def rspLane1 (p : Response) : Byte := p.extractLsb' 8 8

/-- The lane `q[7:0]`: `s3` or `y2`. -/
def rspLane0 (p : Response) : Byte := p.extractLsb' 0 8

end Sys2Proof.Machine
end

