-- ==== Sys2Proof/Machine/Flags.lean ====
section
/-! DEFINITION. The hardware has no flags (10_state.md R13). This file holds the tests an operation makes and the count
`rsp.n`, which plays the part a status flag would but is an output of the same evaluation. -/

namespace Sys2Proof.Machine

/-- `rsp.n`, bits 33:32: the byte count (R51). -/
def rspN (p : Response) : BitVec 2 := p.extractLsb' 32 2

/-- `n` = 0: the hard failure of a word decode, and nothing else (60_exceptions.md R150, R153). -/
def rspFailed (p : Response) : Bool := rspN p == 0

/-- The character is invalid: its value is the sentinel (42_word_decoder.md R102). -/
def isInvalid (c : Character) : Bool := val c == invalidValue

/-- The count asks for `=` in the third character: one real byte (41_word_encoder.md R83, R84). -/
def padsThird (k : BitVec 2) : Bool := k == 1

/-- The count asks for `=` in the fourth character: one or two real bytes (R83, R84). -/
def padsFourth (k : BitVec 2) : Bool := k == 1 || k == 2

end Sys2Proof.Machine
end

