-- ==== Sys2Proof/Machine/Ops.lean ====
section
/-! DEFINITION. The operations every meaning shares: taking a request, answering it, and the failure response.

The block has no trap (60_exceptions.md R157): the one abnormal outcome is the response `failResponse`, which
`respond` records as it does any other, and there is nothing to return from (R158). -/

namespace Sys2Proof.Machine

/-- The request leaves the host's list and counts as issued. -/
def takeRequest (r : Request) (rest : List Request) (s : State) : State :=
  { s with pending := rest, issued := s.issued ++ [r] }

/-- The block drives `p` on `rsp` and the host takes it; nothing else changes (00_scope.md R8, 10_state.md R10). -/
def respond (p : Response) (s : State) : Host.Outcome State Fault Refusal :=
  .next { s with responses := s.responses ++ [p] }

/-- The response of an encode operation: count and four characters (R51). -/
def encodeResponse (n : BitVec 2) (s0 s1 s2 s3 : Character) : Response :=
  packResponse n (lanes s0 s1 s2 s3)

/-- The response of a decode operation: count, 0x00 and three byte lanes (R51, R101). -/
def decodeResponse (n : BitVec 2) (y0 y1 y2 : Byte) : Response :=
  packResponse n (lanes 0 y0 y1 y2)

/-- `FAIL` of R101: no byte produced, every lane 0x00, no position and no partial byte (60_exceptions.md R151, R152). -/
def failResponse : Response := decodeResponse 0 0 0 0

end Sys2Proof.Machine
end

