-- ==== Sys2Proof/Machine/Decoder.lean ====
section
/-! DEFINITION. The word decoder: `DECW` (42_word_decoder.md). -/

namespace Sys2Proof.Machine

/-- The response of `DECW`: the numbered tests of R101 in their order, the first that holds deciding (R103). -/
def decwResponse (c0 c1 c2 c3 : Character) : Response :=
  if isInvalid c0 || isInvalid c1 then failResponse
  else if c2 = padChar then decodeResponse 1 (byte0 (val c0) (val c1)) 0 0
  else if isInvalid c2 then failResponse
  else if c3 = padChar then decodeResponse 2 (byte0 (val c0) (val c1)) (byte1 (val c1) (val c2)) 0
  else if isInvalid c3 then failResponse
  else decodeResponse 3 (byte0 (val c0) (val c1)) (byte1 (val c1) (val c2)) (byte2 (val c2) (val c3))

/-- `DECW` (R101). A failing group is answered like any other, with `failResponse` (60_exceptions.md R150). -/
def execDecw (c0 c1 c2 c3 : Character) (s : State) : Host.Outcome State Fault Refusal :=
  respond (decwResponse c0 c1 c2 c3) s

end Sys2Proof.Machine
end

