-- ==== Sys2Proof/Machine/Encoder.lean ====
section
/-! DEFINITION. The word encoder: `ENCW` and `ENCWF` (41_word_encoder.md). -/

namespace Sys2Proof.Machine

/-- The four characters of a group before any padding: the split of R80 and the substitution of R81. -/
structure Substituted where
  t0 : Character
  t1 : Character
  t2 : Character
  t3 : Character
  deriving DecidableEq, Repr

/-- Splits the group and looks each 6-bit group up in `FWD` (R80, R81). -/
def substitute (w : Group24) : Substituted where
  t0 := sym (sextet0 w)
  t1 := sym (sextet1 w)
  t2 := sym (sextet2 w)
  t3 := sym (sextet3 w)

/-- The response of `ENCW`: four symbols, no padding, `n` = 3 (R82). -/
def encwResponse (b0 b1 b2 : Byte) : Response :=
  let t := substitute (group24 b0 b1 b2)
  encodeResponse 3 t.t0 t.t1 t.t2 t.t3

/-- The response of `ENCWF` for a legal count: padding from the count alone, the bytes as presented, `n` = `k`
(R83, R84, R85). -/
def encwfResponse (k : BitVec 2) (b0 b1 b2 : Byte) : Response :=
  let t := substitute (group24 b0 b1 b2)
  encodeResponse k t.t0 t.t1 (if padsThird k then padChar else t.t2) (if padsFourth k then padChar else t.t3)

/-- `ENCW` (R82). -/
def execEncw (b0 b1 b2 : Byte) (s : State) : Host.Outcome State Fault Refusal :=
  respond (encwResponse b0 b1 b2) s

/-- `ENCWF` (R83); a count of 0 is the reserved request and is refused (R58). -/
def execEncwf (k : BitVec 2) (b0 b1 b2 : Byte) (s : State) : Host.Outcome State Fault Refusal :=
  if k = 0 then .refused .reservedRealByteCount else respond (encwfResponse k b0 b1 b2) s

end Sys2Proof.Machine
end

