-- ==== Sys2Proof/Machine/Dispatch.lean ====
section
/-! DEFINITION. One arm per operation (30_encoding.md R53). -/

namespace Sys2Proof.Machine

def exec (i : Instr) (s : State) : Host.Outcome State Fault Refusal :=
  match i with
  | .encw b0 b1 b2 => Sys2Proof.Machine.execEncw b0 b1 b2 s
  | .encwf k b0 b1 b2 => Sys2Proof.Machine.execEncwf k b0 b1 b2 s
  | .decw c0 c1 c2 c3 => Sys2Proof.Machine.execDecw c0 c1 c2 c3 s

end Sys2Proof.Machine
end

