-- ==== Sys2Proof/Machine/Step.lean ====
section
/-! DEFINITION. One step: the request presented is taken, its operation evaluated, its response recorded
(00_scope.md R8). -/

namespace Sys2Proof.Machine

/-- One step of the block (R8). With no request presented there is nothing to answer and nothing changes: the run is
at its end (70_reset_and_hazards.md R182). DESIGN CHOICE, log entry 2. -/
def step (s : State) : Host.Outcome State Fault Refusal :=
  match s.pending with
  | [] => .next s
  | r :: rest => exec (decode r) (takeRequest r rest s)

/-- The state with the word `w` of `nbits` bits as the host's next request. A number that is no 36-bit word cannot be
presented and leaves the state as it is. Log entry 6. -/
def State.withFetchWord (s : State) (nbits w : Nat) : State :=
  if w % 2 ^ nbits < 2 ^ 36 then { s with pending := BitVec.ofNat 36 (w % 2 ^ nbits) :: s.pending } else s

end Sys2Proof.Machine
end

