-- ==== Sys2Proof/Machine/Assembler.lean ====
section
/-! DEFINITION. The spec's assembler notation (30_encoding.md R61, R62; 95_test_vectors.md for the two escapes in
quoted text), from text to operations and back, and words as 9 hexadecimal digits. Log entry 7 names what R61 leaves
open. -/

namespace Sys2Proof.Machine

/-! ### Digits -/

/-- The value of a hexadecimal digit. -/
def hexValue (c : Char) : Option Nat :=
  if '0' ≤ c ∧ c ≤ '9' then some (c.toNat - 48)
  else if 'A' ≤ c ∧ c ≤ 'F' then some (c.toNat - 55)
  else if 'a' ≤ c ∧ c ≤ 'f' then some (c.toNat - 87)
  else none

/-- The value of a decimal digit. -/
def decValue (c : Char) : Option Nat := if '0' ≤ c ∧ c ≤ '9' then some (c.toNat - 48) else none

/-- The digit that writes a number below 16. -/
def hexDigit (n : Nat) : Char := if n < 10 then Char.ofNat (48 + n) else Char.ofNat (55 + n)

/-- Reads digits in a base, the most significant first; `acc` is the number so far. -/
def readDigits (base : Nat) (value : Char → Option Nat) : Nat → List Char → Option Nat
  | acc, [] => some acc
  | acc, c :: cs => (value c).bind fun v => readDigits base value (base * acc + v) cs

/-- A number as R61 writes it: hexadecimal after `0x`, otherwise decimal. That the `0b` notation of 00_scope.md R6 is no
operand, so that a line with it is malformed, is the model's choice (DESIGN CHOICE, log entry 7). -/
def readNumber : List Char → Option Nat
  | '0' :: 'x' :: c :: cs => readDigits 16 hexValue 0 (c :: cs)
  | c :: cs => readDigits 10 decValue 0 (c :: cs)
  | [] => none

/-- The `n` least significant hexadecimal digits of a number, the most significant first. -/
def writeDigits : Nat → Nat → List Char
  | 0, _ => []
  | n + 1, w => writeDigits n (w / 16) ++ [hexDigit (w % 16)]

/-- A request word as 9 hexadecimal digits (R61). -/
def requestDigits (r : Request) : List Char := writeDigits 9 r.toNat

/-- A response word as 9 hexadecimal digits, of which the first is `n` (R61). -/
def responseDigits (p : Response) : List Char := writeDigits 9 p.toNat

/-! ### Tokens -/

/-- A piece of a line: a mnemonic or number, a comma, or quoted text as character codes. -/
inductive Token where
  | word (w : List Char)
  | comma
  | quoted (cs : List Character)
  deriving DecidableEq, Repr

/-- Where the reading of a line stands. -/
inductive LexMode where
  | between
  | inWord (w : List Char)
  | inQuotes (closing : Char) (cs : List Character)
  deriving DecidableEq, Repr

/-- A space or a tab. -/
def isBlank (c : Char) : Bool := c == ' ' || c == '\t'

/-- The single and the double quote. -/
def isQuote (c : Char) : Bool := c == Char.ofNat 39 || c == Char.ofNat 34

/-- The character code that a quoted `Char` stands for: its code point, where that has 8 bits. 00_scope.md R6 says so of
ASCII; that 0x80 to 0xFF stand for themselves and that larger code points are rejected is the model's choice (DESIGN
CHOICE, log entry 7). -/
def codeOf (c : Char) : Option Character := if c.toNat < 256 then some (BitVec.ofNat 8 c.toNat) else none

/-- The character ends a word: it is blank, a comma, a quote or the start of a comment. -/
def endsWord (c : Char) : Bool := isBlank c || isQuote c || c == ',' || c == ';'

/-- Reads the rest of a line in a mode. A `;` outside quotes starts a comment (R61). -/
def lex : LexMode → List Char → Option (List Token)
  | .between, [] => some []
  | .inWord w, [] => some [.word w]
  | .inQuotes _ _, [] => none
  | .between, c :: cs =>
    if c = ';' then some []
    else if c = ',' then (lex .between cs).map (.comma :: ·)
    else if isBlank c then lex .between cs
    else if isQuote c then lex (.inQuotes c []) cs
    else lex (.inWord [c]) cs
  | .inWord w, c :: cs =>
    if c = ';' then some [.word w]
    else if c = ',' then (lex .between cs).map fun ts => .word w :: .comma :: ts
    else if isBlank c then (lex .between cs).map (.word w :: ·)
    else if isQuote c then (lex (.inQuotes c []) cs).map (.word w :: ·)
    else lex (.inWord (w ++ [c])) cs
  | .inQuotes q w, c :: cs =>
    if c = q then (lex .between cs).map (.quoted w :: ·)
    else if c = Char.ofNat 92 then
      match cs with
      | 'n' :: cs' => lex (.inQuotes q (w ++ [0x0A])) cs'
      | 'x' :: h :: l :: cs' =>
        match hexValue h, hexValue l with
        | some a, some b => lex (.inQuotes q (w ++ [BitVec.ofNat 8 (16 * a + b)])) cs'
        | _, _ => none
      | _ => none
    else (codeOf c).bind fun code => lex (.inQuotes q (w ++ [code])) cs

/-! ### Lines -/

/-- One operand: an 8-bit number, or one quoted character (R61). -/
def operandOf : Token → Option Byte
  | .word w => (readNumber w).bind fun n => if n < 256 then some (BitVec.ofNat 8 n) else none
  | .quoted [c] => some c
  | _ => none

/-- Operands separated by commas. -/
def operandsOf : List Token → Option (List Byte)
  | [t] => (operandOf t).map ([·])
  | t :: .comma :: ts => (operandOf t).bind fun b => (operandsOf ts).map (b :: ·)
  | _ => none

/-- Is a token no quoted text? Only `DECW` takes quoted operands (R61). -/
def unquoted : Token → Bool
  | .quoted _ => false
  | _ => true

/-- The numeric operands of an encode operation. -/
def numbersOf (ts : List Token) : Option (List Byte) := if ts.all unquoted then operandsOf ts else none

/-- `ENCWF`'s operands: the count first, 1, 2 or 3 (R61). -/
def assembleEncwf : List Byte → Option Instr
  | [k, b0, b1, b2] => if k = 1 ∨ k = 2 ∨ k = 3 then some (.encwf (k.setWidth 2) b0 b1 b2) else none
  | _ => none

/-- `DECW`'s operands: four of them, or one quoted text of four characters (R61). -/
def assembleDecw : List Token → Option Instr
  | [.quoted [c0, c1, c2, c3]] => some (.decw c0 c1 c2 c3)
  | ts =>
    match operandsOf ts with
    | some [c0, c1, c2, c3] => some (.decw c0 c1 c2 c3)
    | _ => none

/-- An operation or pseudo-operation from its mnemonic and operands (R61, R62). -/
def assembleTokens (mnemonic : List Char) (ts : List Token) : Option Instr :=
  if mnemonic = ['E', 'N', 'C', 'W'] then
    match numbersOf ts with
    | some [b0, b1, b2] => some (.encw b0 b1 b2)
    | _ => none
  else if mnemonic = ['E', 'N', 'C', 'W', 'F'] then (numbersOf ts).bind assembleEncwf
  else if mnemonic = ['D', 'E', 'C', 'W'] then assembleDecw ts
  else if mnemonic = ['E', 'N', 'C', 'W', '1'] then
    match numbersOf ts with
    | some [b0] => some (pseudoEncw1 b0)
    | _ => none
  else if mnemonic = ['E', 'N', 'C', 'W', '2'] then
    match numbersOf ts with
    | some [b0, b1] => some (pseudoEncw2 b0 b1)
    | _ => none
  else none

/-- What a line holds. -/
inductive AsmLine where
  /-- Nothing but blanks and a comment. -/
  | empty
  | operation (i : Instr)
  /-- The line is not of the notation. -/
  | malformed
  deriving DecidableEq, Repr

/-- Assembles one line (R61). -/
def assembleLine (line : List Char) : AsmLine :=
  match lex .between line with
  | some [] => .empty
  | some (.word m :: ts) =>
    match assembleTokens m ts with
    | some i => .operation i
    | none => .malformed
  | _ => .malformed

/-- Assembles a program: a finite list of requests, in order (70_reset_and_hazards.md R182); none if a line is
malformed. -/
def assemble : List (List Char) → Option (List Request)
  | [] => some []
  | l :: ls =>
    match assembleLine l with
    | .empty => assemble ls
    | .operation i => (assemble ls).map (encode i :: ·)
    | .malformed => none

/-- A byte as `0xHH`. -/
def writeByte (b : Byte) : List Char := '0' :: 'x' :: writeDigits 2 b.toNat

/-- Operands separated by commas. -/
def writeOperands : List Byte → List Char
  | [] => []
  | [b] => writeByte b
  | b :: bs => writeByte b ++ ',' :: ' ' :: writeOperands bs

/-- An operation in the notation of R61, every operand a hexadecimal number. -/
def writeInstr : Instr → List Char
  | .encw b0 b1 b2 => 'E' :: 'N' :: 'C' :: 'W' :: ' ' :: writeOperands [b0, b1, b2]
  | .encwf k b0 b1 b2 => 'E' :: 'N' :: 'C' :: 'W' :: 'F' :: ' ' :: writeOperands [k.setWidth 8, b0, b1, b2]
  | .decw c0 c1 c2 c3 => 'D' :: 'E' :: 'C' :: 'W' :: ' ' :: writeOperands [c0, c1, c2, c3]

end Sys2Proof.Machine
end

