-- ==== Sys2Proof/Config.lean ====
section
/-! DEFINITION. What an implementation fixes and the spec leaves open.

No parameter of the block is open (00_scope.md R5). The one open parameter is the host's. -/

namespace Sys2Proof

/-- `TERMINATOR` (43_host_sequences.md R127, D20, U10): what the host appends to encoded text, nothing or one
character code. Left open: no value of it can be proved. Log entry 4. -/
opaque Config.terminator : Option Character

end Sys2Proof
end

