-- ==== Sys2Proof/Machine/HostSequences.lean ====
section
/-! DEFINITION. The document's host: the whitespace filter, the top-level Encoder and the top-level Decoder
(43_host_sequences.md). All of it is outside the block; it reaches the block only through `step`, one request at a
time, and takes the response before it issues the next (R120). -/

namespace Sys2Proof.Machine

/-! ### Issuing a request -/

/-- Goes on with `f` when the outcome is a next state. -/
def andThen {α β : Type} (o : Host.Outcome α Fault Refusal) (f : α → Host.Outcome β Fault Refusal) :
    Host.Outcome β Fault Refusal :=
  match o with
  | .next a => f a
  | .fault e => .fault e
  | .refused e => .refused e

/-- The response taken last. A step that answers a request has recorded one, so the default is never read. -/
def lastResponse (s : State) : Response := s.responses.getLast?.getD 0

/-- The host presents one request, lets the block step and takes the response (R120). -/
def issue (i : Instr) (s : State) : Host.Outcome (State × Response) Fault Refusal :=
  andThen (step { s with pending := encode i :: s.pending }) fun t => .next (t, lastResponse t)

/-! ### Whitespace filter (R121 to R123) -/

/-- Space, tab, carriage return, newline, and nothing else (R121). -/
def isWhitespace (c : Character) : Bool := c == 0x20 || c == 0x09 || c == 0x0D || c == 0x0A

/-- Removes every whitespace character and keeps the others in their order (R122). -/
def filterWhitespace (text : List Character) : List Character := text.filter fun c => !isWhitespace c

/-! ### Top-level Encoder (R124 to R127) -/

/-- The four characters of an encode response, in text order (R126). -/
def responseCharacters (p : Response) : List Character :=
  [rspLane3 p, rspLane2 p, rspLane1 p, rspLane0 p]

/-- Issues one encode operation and appends its four characters to the text so far (R126). -/
def issueEncode (i : Instr) (s : State) (text : List Character) :
    Host.Outcome (State × List Character) Fault Refusal :=
  andThen (issue i s) fun (t, p) => .next (t, text ++ responseCharacters p)

/-- The Encoder's pass: full groups of three by `ENCW` (R124), then at most one short group by `ENCWF` with the true
count and zero bytes for the missing ones (R125). `text` is the text so far. -/
def encodeGroups : List Byte → State → List Character → Host.Outcome (State × List Character) Fault Refusal
  | [], s, text => .next (s, text)
  | [b0], s, text => issueEncode (.encwf 1 b0 0 0) s text
  | [b0, b1], s, text => issueEncode (.encwf 2 b0 b1 0) s text
  | b0 :: b1 :: b2 :: rest, s, text =>
    andThen (issueEncode (.encw b0 b1 b2) s text) fun (t, text') => encodeGroups rest t text'

/-- What `encode` returns: the text buffer, and the length of the text, which leaves the terminator out (R127). -/
structure EncodeResult where
  buffer : List Character
  length : Nat
  deriving DecidableEq, Repr

/-- The text buffer for an encoded text: the text, then the terminator where the host appends one (R127, D20). -/
def encodeResultOf (text : List Character) : EncodeResult where
  buffer := text ++ Config.terminator.toList
  length := text.length

/-- The document's `encode(bytes) -> (text, length)` (R120, R124 to R127). -/
def hostEncode (bytes : List Byte) (s : State) : Host.Outcome (State × EncodeResult) Fault Refusal :=
  andThen (encodeGroups bytes s []) fun (t, text) => .next (t, encodeResultOf text)

/-! ### Top-level Decoder (R128 to R134) -/

/-- The host's errors (R135). -/
inductive HostFailure where
  /-- The compacted text's length is no multiple of 4 (R129). -/
  | invalidLength
  /-- A group was answered with `n` = 0 (R132). -/
  | invalidCharacter
  /-- A group that is not the last was answered with `n` = 1 or 2 (R131). -/
  | truncatedGroup
  deriving DecidableEq, Repr

/-- What `decode` returns: the bytes and their number, or a failure and nothing else (R128, R133, R134). -/
inductive DecodeResult where
  | decoded (bytes : List Byte) (length : Nat)
  | failed (why : HostFailure)
  deriving DecidableEq, Repr

/-- The first `n` byte lanes of a decode response: the bytes produced, and no others (R133). -/
def responseBytes (p : Response) : List Byte :=
  [rspLane2 p, rspLane1 p, rspLane0 p].take (rspN p).toNat

/-- The Decoder's pass over the compacted text, left to right, ending at the first failure (R130 to R132). `bytes` are
the bytes so far. Fewer than four characters are left over only in a text that `decodeCompacted` has already turned
away (R129). -/
def decodeGroups : List Character → State → List Byte → Host.Outcome (State × DecodeResult) Fault Refusal
  | [], s, bytes => .next (s, .decoded bytes bytes.length)
  | c0 :: c1 :: c2 :: c3 :: rest, s, bytes =>
    andThen (issue (.decw c0 c1 c2 c3) s) fun (t, p) =>
      if rspFailed p then .next (t, .failed .invalidCharacter)
      else if rspN p != 3 && !rest.isEmpty then .next (t, .failed .truncatedGroup)
      else decodeGroups rest t (bytes ++ responseBytes p)
  | _, s, _ => .next (s, .failed .invalidLength)

/-- The length check, before any request, then the pass (R129, R130). The empty text succeeds (R129, D19). -/
def decodeCompacted (text : List Character) (s : State) : Host.Outcome (State × DecodeResult) Fault Refusal :=
  if text.length % 4 = 0 then decodeGroups text s [] else .next (s, .failed .invalidLength)

/-- The document's `decode(text, length) -> (bytes, length) | Failure` (R120, R128): the first `length` characters of
the buffer are the text. Log entry 10. -/
def hostDecode (buffer : List Character) (length : Nat) (s : State) :
    Host.Outcome (State × DecodeResult) Fault Refusal :=
  decodeCompacted (filterWhitespace (buffer.take length)) s

end Sys2Proof.Machine
end

