-- ==== Sys2Proof/Machine/Ports.lean ====
section
/-! DEFINITION. The block as a function, and its two ports as views of a state (30_encoding.md R53; 10_state.md R17,
R18). Ports are not state. -/

namespace Sys2Proof.Machine

/-- The request is the reserved one: `op` = 0, `final` = 1, `nreal` = 0 (R58). -/
def isReserved (r : Request) : Bool := reqOp r == 0 && reqFinal r == 1 && reqNreal r == 0

/-- The response of an operation; none for the reserved one, whose response is unspecified (R53, R58). -/
def responseOf : Instr → Option Response
  | .encw b0 b1 b2 => some (encwResponse b0 b1 b2)
  | .encwf k b0 b1 b2 => if k = 0 then none else some (encwfResponse k b0 b1 b2)
  | .decw c0 c1 c2 c3 => some (decwResponse c0 c1 c2 c3)

/-- The block's function of a request word (R53); none for the reserved request (R58). -/
def blockFunction (r : Request) : Option Response := responseOf (decode r)

/-- The word on the `req` port: the host's next request; none while the port is undriven (R17). -/
def reqPort (s : State) : Option Request := s.pending.head?

/-- The word on the `rsp` port: the block's function of the word on `req` (R18); none where it is unspecified, while
`req` is undriven or holds the reserved request (R21, R58). -/
def rspPort (s : State) : Option Response := (reqPort s).bind blockFunction

end Sys2Proof.Machine
end

