-- ==== Sys2Proof/Safety.lean ====
section
/-! DEFINITION. What counts as a safe run, and the terms the statements use.

The block itself cannot go wrong (60_exceptions.md R150); a run stops only on the reserved request (R162). -/

namespace Sys2Proof.Machine

/-- The outcome is a next state. -/
def Completes {α : Type} (o : Host.Outcome α Fault Refusal) : Prop := ∃ a, o = .next a

/-- In every state the operation completes, its response is `p`, and nothing else changes. -/
def Answers (i : Instr) (p : Response) : Prop :=
  ∀ s : State, exec i s = .next { s with responses := s.responses ++ [p] }

/-- The state with one more request, to be presented next. -/
def present (r : Request) (s : State) : State := { s with pending := r :: s.pending }

/-- The host keeps its obligation O3: none of the requests it has yet to present is the reserved one
(70_reset_and_hazards.md R174). -/
def HostObeysO3 (s : State) : Prop := ∀ r ∈ s.pending, isReserved r = false

/-! ### Invariants -/

/-- Each response taken is the block's answer to the request issued at the same place (10_state.md R24,
70_reset_and_hazards.md R181). -/
def ResponsesMatch (s : State) : Prop := s.issued.map blockFunction = s.responses.map some

/-- The character is one of the 64 symbols (00_scope.md section 6). -/
def isSymbol (c : Character) : Bool := fwdRom.contains c

/-- The form of an encode response: two symbols, then two symbols, one and `=`, or `=` twice, as `n` says
(41_word_encoder.md R87, R88). -/
def EncodeForm (p : Response) : Prop :=
  isSymbol (rspLane3 p) ∧ isSymbol (rspLane2 p) ∧
    ((rspN p = 3 ∧ isSymbol (rspLane1 p) ∧ isSymbol (rspLane0 p)) ∨
     (rspN p = 2 ∧ isSymbol (rspLane1 p) ∧ rspLane0 p = padChar) ∨
     (rspN p = 1 ∧ rspLane1 p = padChar ∧ rspLane0 p = padChar))

/-- The form of a decode response: a zero lane, then `n` bytes produced and zeros (42_word_decoder.md R106). -/
def DecodeForm (p : Response) : Prop :=
  rspLane3 p = 0 ∧ (rspN p = 0 → rspLane2 p = 0) ∧ (rspN p = 0 ∨ rspN p = 1 → rspLane1 p = 0) ∧
    (rspN p ≠ 3 → rspLane0 p = 0)

/-- Every response taken has one of the two forms. -/
def ResponsesLegal (s : State) : Prop := ∀ p ∈ s.responses, EncodeForm p ∨ DecodeForm p

/-! ### Texts in groups of four -/

/-- The four characters of one group, in text order. -/
structure TextGroup where
  c0 : Character
  c1 : Character
  c2 : Character
  c3 : Character
  deriving DecidableEq, Repr

/-- The decode operation of a group. -/
def TextGroup.instr (g : TextGroup) : Instr := .decw g.c0 g.c1 g.c2 g.c3

/-- The block's response to a group. -/
def TextGroup.response (g : TextGroup) : Response := decwResponse g.c0 g.c1 g.c2 g.c3

/-- The characters of a list of groups. -/
def charactersOf (gs : List TextGroup) : List Character := gs.flatMap fun g => [g.c0, g.c1, g.c2, g.c3]

/-- All four characters are symbols. -/
def fullGroup (c0 c1 c2 c3 : Character) : Bool := isSymbol c0 && isSymbol c1 && isSymbol c2 && isSymbol c3

/-- A last group: full, or padded with the bits the decoder discards all zero (43_host_sequences.md R136 item 2). -/
def canonicalLastGroup (c0 c1 c2 c3 : Character) : Bool :=
  fullGroup c0 c1 c2 c3 ||
  (isSymbol c0 && isSymbol c1 && isSymbol c2 && c3 == padChar && val c2 &&& 0x03 == 0) ||
  (isSymbol c0 && isSymbol c1 && c2 == padChar && c3 == padChar && val c1 &&& 0x0F == 0)

/-- Canonical text: correctly padded, alphabet only, discarded bits zero (00_scope.md section 6, R136). -/
def canonicalText : List Character → Bool
  | [] => true
  | [c0, c1, c2, c3] => canonicalLastGroup c0 c1 c2 c3
  | c0 :: c1 :: c2 :: c3 :: rest => fullGroup c0 c1 c2 c3 && canonicalText rest
  | _ => false

/-! ### The requests of the host's Encoder, by index (43_host_sequences.md R124, R125) -/

/-- The byte at an index of a buffer. -/
def byteAt (bytes : List Byte) (i : Nat) : Byte := bytes.getD i 0

/-- The requests of R124: one `ENCW` for each full group, in increasing order. -/
def fullGroupRequests (bytes : List Byte) : List Request :=
  (List.range (bytes.length / 3)).map fun j =>
    encode (.encw (byteAt bytes (3 * j)) (byteAt bytes (3 * j + 1)) (byteAt bytes (3 * j + 2)))

/-- The request of R125: one `ENCWF` for a short last group. -/
def shortGroupRequest (bytes : List Byte) : List Request :=
  let full := bytes.length - bytes.length % 3
  if bytes.length % 3 = 1 then [encode (.encwf 1 (byteAt bytes full) 0 0)]
  else if bytes.length % 3 = 2 then [encode (.encwf 2 (byteAt bytes full) (byteAt bytes (full + 1)) 0)]
  else []

end Sys2Proof.Machine
end

