-- ==== Sys2Proof/Certificates/Slice0/Obligations.lean ====
section
/-! DEFINITION. The statements about the model, one `def Obligations.<Name> : Prop` each. OBLIGATIONS.json gives each
its rules. -/

open Sys2Proof Sys2Proof.Machine

/-! ### Requests, decoding and encoding (30_encoding.md) -/

/-- R52, R54, R55: every 36-bit word matches exactly one row of the operation table, and decodes to that row's
operation with its operands taken from the bits the rules name. -/
def Obligations.RequestSelectsExactlyOneOperation : Prop :=
  ∀ r : Request,
    (r &&& 0xC00000000#36 = 0x000000000#36 →
      decode r = .encw (r.extractLsb' 16 8) (r.extractLsb' 8 8) (r.extractLsb' 0 8)) ∧
    (r &&& 0xC00000000#36 = 0x400000000#36 →
      decode r = .encwf (r.extractLsb' 32 2) (r.extractLsb' 16 8) (r.extractLsb' 8 8) (r.extractLsb' 0 8)) ∧
    (r &&& 0x800000000#36 = 0x800000000#36 →
      decode r = .decw (r.extractLsb' 24 8) (r.extractLsb' 16 8) (r.extractLsb' 8 8) (r.extractLsb' 0 8)) ∧
    group24 (r.extractLsb' 16 8) (r.extractLsb' 8 8) (r.extractLsb' 0 8) = r.extractLsb' 0 24 ∧
    (if r &&& 0xC00000000#36 = 0x000000000#36 then 1 else 0) +
      (if r &&& 0xC00000000#36 = 0x400000000#36 then 1 else 0) +
      (if r &&& 0x800000000#36 = 0x800000000#36 then 1 else 0) = 1

/-- 30_encoding.md sections 2 and 5: decoding the request word of any operation gives it back, every operand at every
value, the reserved count 0 included. -/
def Obligations.EncodedOperationDecodesToItself : Prop :=
  ∀ i : Instr, decode (encode i) = i ∧ decodeTableWord 40 (encode i).toNat = some i

/-- 30_encoding.md R57, R61: encoding what a word decodes to gives the word with every ignored field 0. -/
def Obligations.ReencodedWordHasIgnoredFieldsZero : Prop :=
  ∀ r : Request, encode (decode r) =
    if r &&& 0xC00000000#36 = 0x000000000#36 then r &&& 0x000FFFFFF#36
    else if r &&& 0xC00000000#36 = 0x400000000#36 then r &&& 0x700FFFFFF#36
    else r &&& 0x8FFFFFFFF#36

/-- R57: two words of one operation that agree on the bits it uses have the same response, whatever the ignored bits,
in every state; and the assembler writes zeros there. -/
def Obligations.IgnoredFieldsHaveNoEffect : Prop :=
  (∀ (r r' : Request) (s t : State),
    (r &&& 0xC00000000#36 = 0x000000000#36 ∧ r' &&& 0xC00FFFFFF#36 = r &&& 0xC00FFFFFF#36) ∨
    (r &&& 0xC00000000#36 = 0x400000000#36 ∧ r' &&& 0xF00FFFFFF#36 = r &&& 0xF00FFFFFF#36) ∨
    (r &&& 0x800000000#36 = 0x800000000#36 ∧ r' &&& 0x8FFFFFFFF#36 = r &&& 0x8FFFFFFFF#36) →
    blockFunction r' = blockFunction r ∧
    (step (present r s) = .next t → step (present r' s) = .next { t with issued := s.issued ++ [r'] })) ∧
  (∀ b0 b1 b2 : Byte, encode (.encw b0 b1 b2) &&& 0x3FF000000#36 = 0) ∧
  (∀ (k : BitVec 2) (b0 b1 b2 : Byte), encode (.encwf k b0 b1 b2) &&& 0x0FF000000#36 = 0) ∧
  (∀ c0 c1 c2 c3 : Character, encode (.decw c0 c1 c2 c3) &&& 0x700000000#36 = 0)

/-- 30_encoding.md R57, R61 and 95_test_vectors.md: words the spec writes out decode to the operations it says. -/
def Obligations.SpecWordsDecodeToTheirOperations : Prop :=
  decode 0x0004D616E#36 = .encw 0x4D 0x61 0x6E ∧ decode 0x2AB4D616E#36 = .encw 0x4D 0x61 0x6E ∧
  decode 0x5004D0000#36 = .encwf 1 0x4D 0 0 ∧ decode 0x7004D616E#36 = .encwf 3 0x4D 0x61 0x6E ∧
  decode 0x854574675#36 = .decw 0x54 0x57 0x46 0x75 ∧ decode 0xF54574675#36 = .decw 0x54 0x57 0x46 0x75

/-- 30_encoding.md section 4. R58: the reserved requests are those with `req[35:32]` = 4; such a request is not
well-formed, has no response, and is refused. R59: every other request is well-formed. The model's choice, log entry 3:
the word decodes to `ENCWF` with count 0, and it is the meaning that refuses, as `reservedRealByteCount`. -/
def Obligations.ReservedRequestIsRefused : Prop :=
  (∀ (r : Request) (s : State), r.extractLsb' 32 4 = 4#4 →
    ¬ WellFormed (decode r) ∧ blockFunction r = none ∧
    step (present r s) = .refused .reservedRealByteCount) ∧
  (∀ r : Request, r.extractLsb' 32 4 ≠ 4#4 → WellFormed (decode r)) ∧
  (∀ (b0 b1 b2 : Byte) (s : State), exec (.encwf 0 b0 b1 b2) s = .refused .reservedRealByteCount)

/-- 30_encoding.md section 5, R62: the request words of the two pseudo-operations, and what they expand to. -/
def Obligations.PseudoOperationsExpand : Prop :=
  ∀ b0 b1 : Byte,
    pseudoEncw1 b0 = .encwf 1 b0 0 0 ∧ encode (pseudoEncw1 b0) = 0x500000000#36 ||| (b0.setWidth 36 <<< 16) ∧
    pseudoEncw2 b0 b1 = .encwf 2 b0 b1 0 ∧
    encode (pseudoEncw2 b0 b1) = 0x600000000#36 ||| (b0.setWidth 36 <<< 16) ||| (b1.setWidth 36 <<< 8)

/-- 30_encoding.md R61: the assembler reads back every legal operation that is written in its notation, hexadecimal
operands, with or without a comment after it. The comment's blank is the model's choice (log entry 7). -/
def Obligations.AssemblerReadsWhatIsWritten : Prop :=
  ∀ (i : Instr) (comment : List Char), WellFormed i →
    assembleLine (writeInstr i) = .operation i ∧
    assembleLine (writeInstr i ++ ' ' :: ';' :: comment) = .operation i

/-- 30_encoding.md R61: a word is written as 9 hexadecimal digits, from which it can be read back; the first digit of
a response is its `n`. -/
def Obligations.WordsAreWrittenAsNineDigits : Prop :=
  (∀ r : Request, (requestDigits r).length = 9 ∧ readDigits 16 hexValue 0 (requestDigits r) = some r.toNat) ∧
  (∀ p : Response, (responseDigits p).length = 9 ∧ readDigits 16 hexValue 0 (responseDigits p) = some p.toNat ∧
    (responseDigits p).head? = some (hexDigit (rspN p).toNat))

/-! ### The lookups (40_alphabet_rom.md) -/

/-- R71: the arithmetic form of `SYM`; its 64 codes are pairwise distinct, none is `=`, and all are below 0x80. -/
def Obligations.ForwardRomIsTheAlphabet : Prop :=
  (∀ v : Sextet,
    sym v =
      if v ≤ 25 then 0x41#8 + v.setWidth 8
      else if v ≤ 51 then 0x61#8 + (v.setWidth 8 - 26)
      else if v ≤ 61 then 0x30#8 + (v.setWidth 8 - 52)
      else if v = 62 then 0x2B#8 else 0x2F#8) ∧
  (∀ v v' : Sextet, sym v = sym v' → v = v') ∧ (∀ v : Sextet, sym v ≠ 0x3D#8 ∧ sym v < 0x80#8)

/-- R73: `VAL` as a function of the code, and the number of invalid codes. -/
def Obligations.InverseRomClassifiesEveryCode : Prop :=
  (∀ c : Character,
    val c =
      if 0x41 ≤ c ∧ c ≤ 0x5A then c - 0x41#8
      else if 0x61 ≤ c ∧ c ≤ 0x7A then c - 0x61#8 + 26
      else if 0x30 ≤ c ∧ c ≤ 0x39 then c - 0x30#8 + 52
      else if c = 0x2B then 62#8 else if c = 0x2F then 63#8 else if c = 0x3D then 0#8 else 0xFF#8) ∧
  ((List.range 256).filter fun c => val (BitVec.ofNat 8 c) = 0xFF#8).length = 191

/-- 40_alphabet_rom.md section 4, R76 (the spec's own inference): the laws that tie the two tables together. -/
def Obligations.LookupsAreMutuallyInverse : Prop :=
  (∀ v : Sextet, val (sym v) = v.setWidth 8) ∧
  (∀ c : Character, isSymbol c → sym ((val c).setWidth 6) = c) ∧
  (∀ c : Character, val c ≤ 0x3F#8 ∨ val c = 0xFF#8) ∧
  (∀ c : Character, val c ≠ 0xFF#8 ↔ isSymbol c = true ∨ c = 0x3D#8) ∧
  (∀ c : Character, val c = 0#8 ↔ c = 0x3D#8 ∨ c = 0x41#8) ∧ sym 0 = 0x41#8

/-! ### The word encoder (41_word_encoder.md) -/

/-- 41_word_encoder.md section 1, R80: the four groups as slices, as shifts and masks of the 24 bits, as bits of the
three bytes, and together the 24 bits again. The forms in terms of `b0`, `b1`, `b2` are the spec's own inference: R80
marks them "[derived: from rule R54]". -/
def Obligations.BitShufflerSplitsTheGroup : Prop :=
  ∀ (b0 b1 b2 : Byte) (w : Group24), w = b0 ++ b1 ++ b2 →
    sextet0 w = w.extractLsb' 18 6 ∧ sextet1 w = w.extractLsb' 12 6 ∧
    sextet2 w = w.extractLsb' 6 6 ∧ sextet3 w = w.extractLsb' 0 6 ∧
    (sextet0 w).setWidth 24 = (w >>> 18) &&& 0x3F#24 ∧ (sextet1 w).setWidth 24 = (w >>> 12) &&& 0x3F#24 ∧
    (sextet2 w).setWidth 24 = (w >>> 6) &&& 0x3F#24 ∧ (sextet3 w).setWidth 24 = w &&& 0x3F#24 ∧
    sextet0 w = b0.extractLsb' 2 6 ∧ sextet1 w = b0.extractLsb' 0 2 ++ b1.extractLsb' 4 4 ∧
    sextet2 w = b1.extractLsb' 0 4 ++ b2.extractLsb' 6 2 ∧ sextet3 w = b2.extractLsb' 0 6 ∧
    sextet0 w ++ sextet1 w ++ sextet2 w ++ sextet3 w = w

/-- R82: `ENCW` completes in every state with `n` = 3 and the four symbols of its groups, and changes nothing else;
a request of its row is answered so whatever its ignored bits; no character is `=`; zero bytes are data. -/
def Obligations.EncwAnswersFourSymbols : Prop :=
  (∀ (b0 b1 b2 : Byte) (w : Group24) (s : State), w = b0 ++ b1 ++ b2 →
    exec (.encw b0 b1 b2) s = .next { s with responses := s.responses ++ [3#2 ++ sym (w.extractLsb' 18 6) ++
      sym (w.extractLsb' 12 6) ++ sym (w.extractLsb' 6 6) ++ sym (w.extractLsb' 0 6)] }) ∧
  (∀ (r : Request) (s : State), r &&& 0xC00000000#36 = 0x000000000#36 →
    step (present r s) = .next { s with
      issued := s.issued ++ [r]
      responses := s.responses ++ [3#2 ++ sym (r.extractLsb' 18 6) ++ sym (r.extractLsb' 12 6) ++
        sym (r.extractLsb' 6 6) ++ sym (r.extractLsb' 0 6)] }) ∧
  (∀ v : Sextet, sym v ≠ 0x3D#8) ∧
  Answers (.encw 0 0 0) 0x341414141#34 ∧ Answers (.encw 0xFF 0xFF 0xFF) 0x32F2F2F2F#34 ∧
  Answers (.encw 0x4D 0x61 0x6E) 0x354574675#34

/-- 41_word_encoder.md section 3, R83: `ENCWF` with a count of 1, 2 or 3 completes in every state with `n` = `k`, its
third character replaced by `=` for `k` = 1 and its fourth for `k` = 1 or 2, and changes nothing else; a request of its
row is answered so; the rule's corner cases and examples. Two clauses are the spec's own inference: that with zeros
beyond the real bytes the second character is one of `A`, `Q`, `g`, `w` for `k` = 1 and the third has a value that is a
multiple of 4 for `k` = 2, in a sentence R83 marks "[derived: from rule R80]". -/
def Obligations.EncwfPadsFromTheCount : Prop :=
  (∀ (k : BitVec 2) (b0 b1 b2 : Byte) (w : Group24) (s : State), k ≠ 0 → w = b0 ++ b1 ++ b2 →
    exec (.encwf k b0 b1 b2) s = .next { s with responses := s.responses ++ [k ++ sym (w.extractLsb' 18 6) ++
      sym (w.extractLsb' 12 6) ++ (if k = 1 then 0x3D#8 else sym (w.extractLsb' 6 6)) ++
      (if k = 1 ∨ k = 2 then 0x3D#8 else sym (w.extractLsb' 0 6))] }) ∧
  (∀ (r : Request) (s : State), r &&& 0xC00000000#36 = 0x400000000#36 → r.extractLsb' 32 2 ≠ 0#2 →
    step (present r s) = .next { s with
      issued := s.issued ++ [r]
      responses := s.responses ++ [r.extractLsb' 32 2 ++ sym (r.extractLsb' 18 6) ++ sym (r.extractLsb' 12 6) ++
        (if r.extractLsb' 32 2 = 1#2 then 0x3D#8 else sym (r.extractLsb' 6 6)) ++
        (if r.extractLsb' 32 2 = 1#2 ∨ r.extractLsb' 32 2 = 2#2 then 0x3D#8 else sym (r.extractLsb' 0 6))] }) ∧
  (∀ (b0 b1 b2 : Byte) (s : State), exec (.encwf 3 b0 b1 b2) s = exec (.encw b0 b1 b2) s) ∧
  (∀ b0 : Byte, ∃ p, Answers (.encwf 1 b0 0 0) p ∧ rspLane2 p ∈ [0x41#8, 0x51#8, 0x67#8, 0x77#8]) ∧
  (∀ b0 b1 : Byte, ∃ p, Answers (.encwf 2 b0 b1 0) p ∧ val (rspLane1 p) &&& 3#8 = 0) ∧
  Answers (.encwf 2 0x4D 0 0) 0x25451413D#34 ∧ Answers (.encwf 1 0 0 0) 0x141413D3D#34 ∧
  Answers (.encwf 2 0 0 0) 0x24141413D#34 ∧ Answers (.encwf 3 0 0 0) 0x341414141#34 ∧
  Answers (.encwf 1 0x4D 0 0) 0x154513D3D#34 ∧ Answers (.encwf 2 0x4D 0x61 0) 0x25457453D#34

/-- R84: which characters of a final group are `=` is decided by the count, for any bytes whatever; in particular a
third symbol `A` that is data is kept. -/
def Obligations.PaddingIsDecidedByTheCount : Prop :=
  (∀ (k : BitVec 2) (b0 b1 b2 : Byte), k ≠ 0 → ∃ p, Answers (.encwf k b0 b1 b2) p ∧
    rspLane3 p ≠ 0x3D#8 ∧ rspLane2 p ≠ 0x3D#8 ∧ (rspLane1 p = 0x3D#8 ↔ k = 1) ∧
    (rspLane0 p = 0x3D#8 ↔ k = 1 ∨ k = 2)) ∧
  ∃ p, Answers (.encwf 2 0x4D 0 0) p ∧ rspLane1 p = 0x41#8

/-- R85: the bytes beyond the count are not masked; the characters that are kept are those `ENCW` gives for the same
bytes, and the decoder still returns the real bytes; the rule's examples. -/
def Obligations.BytesBeyondTheCountAreNotMasked : Prop :=
  (∀ (k : BitVec 2) (b0 b1 b2 : Byte), k ≠ 0 → ∃ p p', Answers (.encwf k b0 b1 b2) p ∧ Answers (.encw b0 b1 b2) p' ∧
    rspLane3 p = rspLane3 p' ∧ rspLane2 p = rspLane2 p' ∧ (k ≠ 1 → rspLane1 p = rspLane1 p') ∧
    (k = 3 → rspLane0 p = rspLane0 p') ∧
    ∃ d, Answers (.decw (rspLane3 p) (rspLane2 p) (rspLane1 p) (rspLane0 p)) d ∧ rspN d = k ∧
      rspLane2 d = b0 ∧ (k ≠ 1 → rspLane1 d = b1) ∧ (k = 3 → rspLane0 d = b2)) ∧
  Answers (.encwf 1 0x4D 0xF0 0) 0x154663D3D#34 ∧ Answers (.encwf 1 0x4D 0x61 0x6E) 0x154573D3D#34 ∧
  Answers (.encwf 2 0x4D 0x61 0x6E) 0x25457463D#34

/-- 41_word_encoder.md section 5, R88 item 3 (the spec's own inference): different byte groups have different
responses. -/
def Obligations.EncwIsInjective : Prop :=
  ∀ b0 b1 b2 b0' b1' b2' : Byte, ∃ p p', Answers (.encw b0 b1 b2) p ∧ Answers (.encw b0' b1' b2') p' ∧
    (p = p' ↔ b0 = b0' ∧ b1 = b1' ∧ b2 = b2')

/-- 41_word_encoder.md section 5, R88 item 4 and 95_test_vectors.md L1 to L4 (the spec's own inference): presenting an
encode request and then a decode request made of its data returns the real bytes, with the encoder's count, and zeros
after them. -/
def Obligations.WordRoundTripReturnsTheRealBytes : Prop :=
  ∀ (s : State) (b0 b1 b2 : Byte),
    (∃ p t, step (present (encode (.encw b0 b1 b2)) s) = .next t ∧ t.responses = s.responses ++ [p] ∧
      ∃ u, step (present (8#4 ++ rspQ p) t) = .next u ∧
        u.responses = s.responses ++ [p, 3#2 ++ 0#8 ++ b0 ++ b1 ++ b2]) ∧
    (∀ k : BitVec 2, k ≠ 0 →
      ∃ p t, step (present (encode (.encwf k b0 b1 b2)) s) = .next t ∧ t.responses = s.responses ++ [p] ∧
        ∃ u, step (present (8#4 ++ rspQ p) t) = .next u ∧
          u.responses = s.responses ++ [p, k ++ 0#8 ++ b0 ++ (if k = 1 then 0#8 else b1) ++
            (if k = 3 then b2 else 0#8)])

/-- 41_word_encoder.md section 5, R88 item 5 (the spec's own inference): encoding the byte lanes of a decoded group
returns the group exactly when the decoder gave `n` = 3 and none of the four characters is `=`. -/
def Obligations.ReencodingReturnsOnlyUnpaddedGroups : Prop :=
  ∀ c0 c1 c2 c3 : Character, ∃ p, Answers (.decw c0 c1 c2 c3) p ∧
    (Answers (.encw (rspLane2 p) (rspLane1 p) (rspLane0 p)) (3#2 ++ c0 ++ c1 ++ c2 ++ c3) ↔
      rspN p = 3 ∧ c0 ≠ 0x3D#8 ∧ c1 ≠ 0x3D#8 ∧ c2 ≠ 0x3D#8 ∧ c3 ≠ 0x3D#8)

/-! ### The word decoder (42_word_decoder.md) -/

/-- R101: `DECW` completes in every state, its response given by the numbered tests in their order, and changes
nothing else; a request of its row is answered so, whatever its ignored bits; the rule's example. -/
def Obligations.DecwFollowsTheNumberedTests : Prop :=
  (∀ (c0 c1 c2 c3 : Character) (v0 v1 v2 v3 y0 y1 y2 : Byte) (s : State),
    v0 = val c0 → v1 = val c1 → v2 = val c2 → v3 = val c3 →
    y0 = (v0 <<< 2) ||| (v1 >>> 4) → y1 = ((v1 &&& 0x0F#8) <<< 4) ||| (v2 >>> 2) →
    y2 = ((v2 &&& 0x03#8) <<< 6) ||| v3 →
    exec (.decw c0 c1 c2 c3) s = .next { s with responses := s.responses ++ [
      if v0 = 0xFF#8 ∨ v1 = 0xFF#8 then 0#34
      else if c2 = 0x3D#8 then 1#2 ++ 0#8 ++ y0 ++ 0#8 ++ 0#8
      else if v2 = 0xFF#8 then 0#34
      else if c3 = 0x3D#8 then 2#2 ++ 0#8 ++ y0 ++ y1 ++ 0#8
      else if v3 = 0xFF#8 then 0#34
      else 3#2 ++ 0#8 ++ y0 ++ y1 ++ y2] }) ∧
  (∀ (r : Request) (s t : State), r &&& 0x800000000#36 = 0x800000000#36 →
    exec (.decw (r.extractLsb' 24 8) (r.extractLsb' 16 8) (r.extractLsb' 8 8) (r.extractLsb' 0 8)) s = .next t →
    step (present r s) = .next { t with issued := s.issued ++ [r] }) ∧
  Answers (.decw 0x54 0x57 0x46 0x75) 0x3004D616E#34

/-- 42_word_decoder.md section 2, R104 (the spec's own inference): on valid values the three bytes are the
concatenations given there, together the four 6-bit values, and packing undoes the bit-shuffler's split. -/
def Obligations.InversePackingUndoesTheSplit : Prop :=
  (∀ v0 v1 v2 v3 : Byte, v0 ≤ 0x3F → v1 ≤ 0x3F → v2 ≤ 0x3F → v3 ≤ 0x3F →
    byte0 v0 v1 = v0.extractLsb' 0 6 ++ v1.extractLsb' 4 2 ∧
    byte1 v1 v2 = v1.extractLsb' 0 4 ++ v2.extractLsb' 2 4 ∧
    byte2 v2 v3 = v2.extractLsb' 0 2 ++ v3.extractLsb' 0 6 ∧
    byte0 v0 v1 ++ byte1 v1 v2 ++ byte2 v2 v3 =
      v0.extractLsb' 0 6 ++ v1.extractLsb' 0 6 ++ v2.extractLsb' 0 6 ++ v3.extractLsb' 0 6) ∧
  (∀ w : Group24,
    byte0 ((sextet0 w).setWidth 8) ((sextet1 w).setWidth 8) ++ byte1 ((sextet1 w).setWidth 8) ((sextet2 w).setWidth 8) ++
      byte2 ((sextet2 w).setWidth 8) ((sextet3 w).setWidth 8) = w)

/-- R103: the order in which the tests of a group decide, clause by clause. -/
def Obligations.EarlierTestOfAGroupWins : Prop :=
  ∀ c0 c1 c2 c3 : Character, ∃ p, Answers (.decw c0 c1 c2 c3) p ∧
    (val c0 = 0xFF#8 ∨ val c1 = 0xFF#8 → rspN p = 0) ∧
    (val c0 ≠ 0xFF#8 → val c1 ≠ 0xFF#8 → c2 = 0x3D#8 →
      rspN p = 1 ∧ ∀ c3' : Character, Answers (.decw c0 c1 c2 c3') p) ∧
    (val c2 = 0xFF#8 → rspN p = 0) ∧
    (val c0 ≠ 0xFF#8 → val c1 ≠ 0xFF#8 → c2 ≠ 0x3D#8 → val c2 ≠ 0xFF#8 →
      (c3 = 0x3D#8 → rspN p = 2) ∧ (val c3 = 0xFF#8 → rspN p = 0) ∧
      (c3 ≠ 0x3D#8 → val c3 ≠ 0xFF#8 → rspN p = 3))

/-- R106: bytes not produced read 0x00, and so does the top lane of every decode response. -/
def Obligations.UnproducedBytesReadZero : Prop :=
  ∀ c0 c1 c2 c3 : Character, ∃ p, Answers (.decw c0 c1 c2 c3) p ∧ rspLane3 p = 0 ∧
    (rspN p = 0 → rspLane2 p = 0 ∧ rspLane1 p = 0 ∧ rspLane0 p = 0) ∧
    (rspN p = 1 → rspLane1 p = 0 ∧ rspLane0 p = 0) ∧ (rspN p = 2 → rspLane0 p = 0)

/-- R107: `=` at position 0 or 1 behaves exactly as `A`, whatever the other characters; the rule's examples. -/
def Obligations.PaddingAtTheFrontBehavesAsA : Prop :=
  (∀ (c0 c1 c2 c3 : Character) (s : State),
    exec (.decw 0x3D c1 c2 c3) s = exec (.decw 0x41 c1 c2 c3) s ∧
    exec (.decw c0 0x3D c2 c3) s = exec (.decw c0 0x41 c2 c3) s) ∧
  Answers (.decw 0x3D 0x41 0x41 0x41) 0x300000000#34 ∧ Answers (.decw 0x41 0x3D 0x41 0x41) 0x300000000#34 ∧
  Answers (.decw 0x3D 0x3D 0x41 0x41) 0x300000000#34 ∧ Answers (.decw 0x41 0x41 0x41 0x41) 0x300000000#34 ∧
  Answers (.decw 0x3D 0x3D 0x3D 0x3D) 0x100000000#34 ∧ Answers (.decw 0x54 0x3D 0x3D 0x3D) 0x1004C0000#34

/-- 42_word_decoder.md section 3, R109 (the spec's own inference): the discarded bits of a padded group have no effect:
two groups whose values agree on the other bits have the same response. -/
def Obligations.DiscardedBitsAreNotChecked : Prop :=
  (∀ (c0 c1 c1' c3 : Character) (s : State), val c1 ≠ 0xFF#8 → val c1' ≠ 0xFF#8 →
    (val c1).extractLsb' 4 2 = (val c1').extractLsb' 4 2 →
    exec (.decw c0 c1 0x3D c3) s = exec (.decw c0 c1' 0x3D c3) s) ∧
  (∀ (c0 c1 c2 c2' : Character) (s : State), isSymbol c2 → isSymbol c2' →
    (val c2).extractLsb' 2 4 = (val c2').extractLsb' 2 4 →
    exec (.decw c0 c1 c2 0x3D) s = exec (.decw c0 c1 c2' 0x3D) s) ∧
  Answers (.decw 0x54 0x52 0x3D 0x3D) 0x1004D0000#34 ∧ Answers (.decw 0x54 0x57 0x46 0x3D) 0x2004D6100#34

/-- 42_word_decoder.md section 3, R111 (the spec's own inference): the closed form of `n`. -/
def Obligations.CountOfBytesInClosedForm : Prop :=
  ∀ c0 c1 c2 c3 : Character, ∃ p, Answers (.decw c0 c1 c2 c3) p ∧
    rspN p =
      (if isInvalid c0 ∨ isInvalid c1 then 0
       else if c2 = 0x3D#8 then 1
       else if isInvalid c2 then 0
       else if c3 = 0x3D#8 then 2
       else if isInvalid c3 then 0
       else 3) ∧
    (rspN p = 3 ↔ isInvalid c0 = false ∧ isInvalid c1 = false ∧ isInvalid c2 = false ∧ isInvalid c3 = false ∧
      c2 ≠ 0x3D#8 ∧ c3 ≠ 0x3D#8)

/-! ### Failure and outcomes (60_exceptions.md) -/

/-- R151, R153: a response has `n` = 0 exactly when its operation is a `DECW` with an invalid character where a data
symbol is required, and it then records nothing: `q` is 0. -/
def Obligations.OnlyInvalidCharactersFail : Prop :=
  ∀ i : Instr, WellFormed i → ∃ p, Answers i p ∧
    (rspN p = 0 ↔ ∃ c0 c1 c2 c3 : Character, i = .decw c0 c1 c2 c3 ∧
      ((val c0 = 0xFF#8 ∨ val c1 = 0xFF#8) ∨ (c2 ≠ 0x3D#8 ∧ val c2 = 0xFF#8) ∨
        (c2 ≠ 0x3D#8 ∧ c3 ≠ 0x3D#8 ∧ val c3 = 0xFF#8))) ∧
    (rspN p = 0 → rspQ p = 0)

/-- 60_exceptions.md sections 1 and 6, R150, R162: a request is answered unless it is reserved, the reserved one is
refused, and a step never faults. -/
def Obligations.StepAnswersOrRefuses : Prop :=
  ∀ (r : Request) (s : State),
    (r &&& 0xF00000000#36 ≠ 0x400000000#36 → ∃ p, step (present r s) = .next { s with
      issued := s.issued ++ [r]
      responses := s.responses ++ [p] }) ∧
    (∀ e, step (present r s) = .refused e ↔
      r &&& 0xF00000000#36 = 0x400000000#36 ∧ e = .reservedRealByteCount) ∧
    ∀ e, step (present r s) ≠ .fault e

/-! ### The machine (00_scope.md, 10_state.md, 70_reset_and_hazards.md) -/

/-- 00_scope.md section 5, R8; 30_encoding.md R53: when a request is presented, a step is the evaluation of the
operation it decodes to, in the state where the request counts as issued (the list is the model's own, log entry 1). -/
def Obligations.StepRunsTheDecodedOperation : Prop :=
  ∀ (s : State) (r : Request) (rest : List Request), s.pending = r :: rest →
    step s = exec (decode r) { s with pending := rest, issued := s.issued ++ [r] }

/-- The model's choice, log entry 2: a step with no request presented changes nothing (70_reset_and_hazards.md R182
ends the run there). -/
def Obligations.StepWithoutRequestChangesNothing : Prop :=
  ∀ s : State, s.pending = [] → step s = .next s ∧ reqPort s = none ∧ rspPort s = none

/-- The model's interface, log entry 6: a word placed for the next step is decoded and run by it. -/
def Obligations.PlacedWordIsTheNextRequest : Prop :=
  ∀ (s : State) (r : Request),
    decodeTableWord 40 r.toNat = some (decode r) ∧
    step (s.withFetchWord 40 r.toNat) = exec (decode r) { s with issued := s.issued ++ [r] }

/-- R10: nothing a request does is remembered. In any two states an operation that completes has the same response,
and that response is all that is added: the frame of all three operations. -/
def Obligations.ResponseDependsOnTheRequestAlone : Prop :=
  ∀ (i : Instr) (s s' t : State), exec i s = .next t →
    ∃ p, t = { s with responses := s.responses ++ [p] } ∧
      t.pending = s.pending ∧ t.issued = s.issued ∧
      exec i s' = .next { s' with responses := s'.responses ++ [p] }

/-- R18: `rsp` is the block's function of `req` and of nothing else, and it is what the step records. -/
def Obligations.RspIsTheFunctionOfReq : Prop :=
  (∀ s s' : State, reqPort s = reqPort s' → rspPort s = rspPort s') ∧
  (∀ (s : State) (r : Request), reqPort s = some r → rspPort s = blockFunction r) ∧
  (∀ (s : State) (p : Response), rspPort s = some p → ∃ r, reqPort s = some r ∧ step s = .next
    { pending := s.pending.tail, issued := s.issued ++ [r], responses := s.responses ++ [p] })

/-- 10_state.md section 5, R21; 70_reset_and_hazards.md R170, R171: nothing is pending after reset (the empty lists
are the model's choice, log entry 1), the ports have no value, and the first request is answered as any other. -/
def Obligations.ResetLeavesNothingAndTheFirstRequestIsOrdinary : Prop :=
  State.reset.pending = [] ∧ State.reset.issued = [] ∧ State.reset.responses = [] ∧
  reqPort State.reset = none ∧ rspPort State.reset = none ∧
  ∀ (r : Request) (p : Response), blockFunction r = some p →
    step (present r State.reset) = .next { pending := [], issued := [r], responses := [p] }

/-- 10_state.md R24, 70_reset_and_hazards.md R181: from every state in which each response is the block's answer to the
request at the same place, a step leads to such a state. -/
def Obligations.EveryStepKeepsResponsesMatched : Prop :=
  ∀ s t : State, ResponsesMatch s → step s = .next t → ResponsesMatch t

/-- From every state whose responses have the form of an encode or a decode response, a step leads to such a state
(41_word_encoder.md R87, 42_word_decoder.md R106). -/
def Obligations.EveryStepKeepsResponsesLegal : Prop :=
  ∀ s t : State, ResponsesLegal s → step s = .next t → ResponsesLegal t

/-- Both invariants hold after reset (the empty lists are the model's choice, log entry 1). -/
def Obligations.ResetMeetsTheInvariants : Prop :=
  ResponsesMatch State.reset ∧ ResponsesLegal State.reset

/-- 70_reset_and_hazards.md R182, 10_state.md R24: a program without reserved requests runs to its end, and each of its
requests is answered by the block's function of that request, in request order. -/
def Obligations.ProgramIsAnsweredRequestByRequest : Prop :=
  ∀ s : State, HostObeysO3 s → ∃ ps : List Response,
    s.pending.map blockFunction = ps.map some ∧
    core.run s.pending.length s =
      .next { pending := [], issued := s.issued ++ s.pending, responses := s.responses ++ ps }

/-- 70_reset_and_hazards.md R174 O3, 60_exceptions.md R162: a host that never issues the reserved request is never
stopped, however many steps it runs, and keeps the obligation. -/
def Obligations.ObedientHostIsNeverStopped : Prop :=
  ∀ (k : Nat) (s : State), HostObeysO3 s → ∃ t : State, core.run k s = .next t ∧ HostObeysO3 t

/-! ### The host's sequences (43_host_sequences.md) -/

/-- R121, R122: the filter removes the four whitespace characters wherever they stand and keeps all others, in order;
it runs before anything else, so texts that differ by whitespace only decode alike. -/
def Obligations.FilterRemovesExactlyWhitespace : Prop :=
  ∀ text text' : List Character,
    (∀ c ∈ filterWhitespace text, c ≠ 0x20#8 ∧ c ≠ 0x09#8 ∧ c ≠ 0x0D#8 ∧ c ≠ 0x0A#8) ∧
    (filterWhitespace text).Sublist text ∧
    (∀ c : Character, c ≠ 0x20#8 ∧ c ≠ 0x09#8 ∧ c ≠ 0x0D#8 ∧ c ≠ 0x0A#8 →
      (filterWhitespace text).count c = text.count c) ∧
    filterWhitespace (text ++ text') = filterWhitespace text ++ filterWhitespace text' ∧
    (filterWhitespace text = filterWhitespace text' →
      ∀ s : State, hostDecode text text.length s = hostDecode text' text'.length s)

/-- R124, R125, R126, R127: `encode` completes for every buffer, issues one `ENCW` for each full group in order and one
`ENCWF` with the true count for a short last group, and returns the characters of the responses in request order, the
terminator after them and not counted in the length. -/
def Obligations.HostEncoderIssuesTheGroupsInOrder : Prop :=
  ∀ (bytes : List Byte) (s : State), ∃ (ps : List Response) (text : List Character),
    hostEncode bytes s = .next ({ s with
        issued := s.issued ++ fullGroupRequests bytes ++ shortGroupRequest bytes
        responses := s.responses ++ ps },
      { buffer := text ++ Config.terminator.toList, length := text.length }) ∧
    (fullGroupRequests bytes ++ shortGroupRequest bytes).map blockFunction = ps.map some ∧
    text = ps.flatMap (fun p => [rspLane3 p, rspLane2 p, rspLane1 p, rspLane0 p]) ∧
    text.length = 4 * ((bytes.length + 2) / 3)

/-- 43_host_sequences.md section 4, R129: a compacted text whose length is no multiple of 4 fails with InvalidLength
before any request, and the empty compacted text succeeds with no byte and no request. For a length beyond the buffer's
end this is the model's reading, log entry 10 (DEDUCED): the text is then the whole buffer. -/
def Obligations.LengthIsCheckedBeforeAnyRequest : Prop :=
  ∀ (buffer : List Character) (length : Nat) (s : State),
    ((filterWhitespace (buffer.take length)).length % 4 ≠ 0 →
      hostDecode buffer length s = .next (s, .failed .invalidLength)) ∧
    (filterWhitespace (buffer.take length) = [] → hostDecode buffer length s = .next (s, .decoded [] 0))

/-- R131: a group that is not the last and is answered with 1 or 2 bytes fails the decode with TruncatedGroup at once;
no later request is issued. -/
def Obligations.ShortGroupBeforeTheLastIsTruncated : Prop :=
  ∀ (before after : List TextGroup) (g : TextGroup) (s : State),
    (∀ h ∈ before, rspN h.response = 3) → (rspN g.response = 1 ∨ rspN g.response = 2) → after ≠ [] →
    decodeCompacted (charactersOf (before ++ g :: after)) s = .next ({ s with
        issued := s.issued ++ (before ++ [g]).map fun h => encode h.instr
        responses := s.responses ++ (before ++ [g]).map TextGroup.response },
      .failed .truncatedGroup)

/-- R132: a group answered with 0 bytes, wherever it stands, fails the decode with InvalidCharacter at once; no later
request is issued. -/
def Obligations.FailedGroupIsAnInvalidCharacter : Prop :=
  ∀ (before after : List TextGroup) (g : TextGroup) (s : State),
    (∀ h ∈ before, rspN h.response = 3) → rspN g.response = 0 →
    decodeCompacted (charactersOf (before ++ g :: after)) s = .next ({ s with
        issued := s.issued ++ (before ++ [g]).map fun h => encode h.instr
        responses := s.responses ++ (before ++ [g]).map TextGroup.response },
      .failed .invalidCharacter)

/-- R130, R133: when every group but the last gives 3 bytes and the last 1, 2 or 3, one `DECW` is issued for each group
in order and the result is the first `n` bytes of each response, in group order; its length is as the rule says. -/
def Obligations.HostDecoderConcatenatesTheBytes : Prop :=
  ∀ (before : List TextGroup) (g : TextGroup) (s : State),
    (∀ h ∈ before, rspN h.response = 3) → rspN g.response ≠ 0 →
    ∃ bytes : List Byte,
      decodeCompacted (charactersOf (before ++ [g])) s = .next ({ s with
          issued := s.issued ++ (before ++ [g]).map fun h => encode h.instr
          responses := s.responses ++ (before ++ [g]).map TextGroup.response },
        .decoded bytes bytes.length) ∧
      bytes = (before ++ [g]).flatMap (fun h =>
        [rspLane2 h.response, rspLane1 h.response, rspLane0 h.response].take (rspN h.response).toNat) ∧
      bytes.length = 3 * before.length + (rspN g.response).toNat

/-- 43_host_sequences.md sections 4 and 6, R128, R134, R136: whatever text it is given, `decode` completes with bytes or
a failure, and leaves the host's own requests as they were. 10_state.md section 5, R24: it keeps every response the
block's answer to its request. For a length beyond the buffer's end this is the model's reading, log entry 10 (DEDUCED):
the text is then the whole buffer. -/
def Obligations.HostDecoderAlwaysCompletes : Prop :=
  ∀ (buffer : List Character) (length : Nat) (s : State), ∃ (t : State) (result : DecodeResult),
    hostDecode buffer length s = .next (t, result) ∧ t.pending = s.pending ∧ s.issued <+: t.issued ∧
    (ResponsesMatch s → ResponsesMatch t)

/-- 43_host_sequences.md section 6, R136 item 1 (the spec's own inference): decoding what `encode` returned gives the
buffer back, for every buffer and every terminator, and so does decoding any text that differs from it by whitespace
only. -/
def Obligations.DecodeOfEncodeReturnsTheBuffer : Prop :=
  ∀ (bytes : List Byte) (s : State), ∃ (t : State) (e : EncodeResult),
    hostEncode bytes s = .next (t, e) ∧
    (∃ u, hostDecode e.buffer e.length t = .next (u, .decoded bytes bytes.length)) ∧
    ∀ (spaced : List Character) (s' : State), filterWhitespace spaced = e.buffer.take e.length →
      ∃ u, hostDecode spaced spaced.length s' = .next (u, .decoded bytes bytes.length)

/-- 43_host_sequences.md section 6, R136 item 2 (the spec's own inference): decoding a text that is canonical once its
whitespace is removed succeeds, and encoding the bytes gives that text without the whitespace. -/
def Obligations.EncodeOfDecodeReturnsCanonicalText : Prop :=
  ∀ (text : List Character) (s : State), canonicalText (filterWhitespace text) = true →
    ∃ (t u : State) (bytes : List Byte) (e : EncodeResult),
      hostDecode text text.length s = .next (t, .decoded bytes bytes.length) ∧
      hostEncode bytes t = .next (u, e) ∧ e.buffer.take e.length = filterWhitespace text
end

