-- ==== Sys2Proof/Laws/State.lean ====
section
/-! SUPPORT. One lemma per field for each update of a state. -/

namespace Sys2Proof.Machine

@[simp] theorem takeRequest_pending (r : Request) (rest : List Request) (s : State) :
    (takeRequest r rest s).pending = rest := rfl

@[simp] theorem takeRequest_issued (r : Request) (rest : List Request) (s : State) :
    (takeRequest r rest s).issued = s.issued ++ [r] := rfl

@[simp] theorem takeRequest_responses (r : Request) (rest : List Request) (s : State) :
    (takeRequest r rest s).responses = s.responses := rfl

@[simp] theorem present_pending (r : Request) (s : State) : (present r s).pending = r :: s.pending := rfl

@[simp] theorem present_issued (r : Request) (s : State) : (present r s).issued = s.issued := rfl

@[simp] theorem present_responses (r : Request) (s : State) : (present r s).responses = s.responses := rfl

@[simp] theorem reset_pending : State.reset.pending = [] := rfl

@[simp] theorem reset_issued : State.reset.issued = [] := rfl

@[simp] theorem reset_responses : State.reset.responses = [] := rfl

/-- Placing a request word for the next step is presenting it. -/
theorem withFetchWord_eq_present (s : State) (r : Request) : s.withFetchWord 40 r.toNat = present r s := by
  have h36 : r.toNat < 2 ^ 36 := r.isLt
  have h40 : r.toNat % 2 ^ 40 = r.toNat := Nat.mod_eq_of_lt (Nat.lt_trans h36 (by decide))
  unfold State.withFetchWord present
  rw [h40, if_pos h36]
  congr 2
  exact BitVec.eq_of_toNat_eq (by rw [BitVec.toNat_ofNat]; exact Nat.mod_eq_of_lt h36)

end Sys2Proof.Machine
end

