-- ==== Sys2Proof/Laws/Exec.lean ====
section
/-! SUPPORT. What one operation and one step can do, said once. -/

namespace Sys2Proof.Machine

@[simp] theorem respond_eq (p : Response) (s : State) :
    respond p s = .next { s with responses := s.responses ++ [p] } := rfl

/-- An operation with a response answers it in every state and changes nothing else. -/
theorem exec_of_responseOf {i : Instr} {p : Response} (h : responseOf i = some p) (s : State) :
    exec i s = .next { s with responses := s.responses ++ [p] } := by
  cases i with
  | encw b0 b1 b2 => cases h; rfl
  | decw c0 c1 c2 c3 => cases h; rfl
  | encwf k b0 b1 b2 =>
    by_cases hk : k = 0
    · simp [responseOf, hk] at h
    · cases (if_neg hk).symm.trans h
      exact if_neg hk

/-- An operation without a response is the reserved one, and is refused. -/
theorem exec_of_no_response {i : Instr} (h : responseOf i = none) (s : State) :
    exec i s = .refused .reservedRealByteCount := by
  cases i with
  | encw b0 b1 b2 => cases h
  | decw c0 c1 c2 c3 => cases h
  | encwf k b0 b1 b2 =>
    by_cases hk : k = 0
    · exact if_pos hk
    · cases (if_neg hk).symm.trans h

/-- All that an operation can do when it completes. -/
theorem exec_next_cases {i : Instr} {s t : State} (h : exec i s = .next t) :
    ∃ p, responseOf i = some p ∧ t = { s with responses := s.responses ++ [p] } := by
  cases hr : responseOf i with
  | none => rw [exec_of_no_response hr] at h; cases h
  | some p => rw [exec_of_responseOf hr] at h; cases h; exact ⟨p, rfl, rfl⟩

/-- All that a step can do when it completes: nothing when no request is presented, or answer the request. -/
theorem step_next_cases {s t : State} (h : step s = .next t) :
    (s.pending = [] ∧ t = s) ∨
    ∃ r rest p, s.pending = r :: rest ∧ blockFunction r = some p ∧
      t = { pending := rest, issued := s.issued ++ [r], responses := s.responses ++ [p] } := by
  unfold step at h
  split at h
  · next hp => cases h; exact .inl ⟨hp, rfl⟩
  · next r rest hp =>
    obtain ⟨p, hr, ht⟩ := exec_next_cases h
    exact .inr ⟨r, rest, p, hp, hr, ht⟩

/-- A presented request with a response is answered. -/
theorem step_of_blockFunction {s : State} {r : Request} {rest : List Request} {p : Response}
    (hs : s.pending = r :: rest) (h : blockFunction r = some p) :
    step s = .next { pending := rest, issued := s.issued ++ [r], responses := s.responses ++ [p] } := by
  unfold step
  rw [hs]
  exact exec_of_responseOf h _

end Sys2Proof.Machine
end

