-- ==== Sys2Proof/Laws/HostSequences.lean ====
section
/-! SUPPORT. What the host's shared operations do (43_host_sequences.md). -/

namespace Sys2Proof.Machine

@[simp] theorem andThen_next {α β : Type} (a : α) (f : α → Host.Outcome β Fault Refusal) :
    andThen (.next a) f = f a := rfl

@[simp] theorem andThen_refused {α β : Type} (e : Refusal) (f : α → Host.Outcome β Fault Refusal) :
    andThen (.refused e) f = .refused e := rfl

/-- A request that reads back as its operation is answered, and the host takes that very response (R120). -/
theorem issue_of_responseOf {i : Instr} {p : Response} (hd : decode (encode i) = i) (h : responseOf i = some p)
    (s : State) :
    issue i s = .next ({ s with issued := s.issued ++ [encode i], responses := s.responses ++ [p] }, p) := by
  unfold issue
  rw [step_of_blockFunction (p := p) (r := encode i) (rest := s.pending) rfl (by rw [blockFunction, hd]; exact h)]
  simp [lastResponse]

end Sys2Proof.Machine
end

