-- ==== Sys2Proof/Laws/Operands.lean ====
section
/-! SUPPORT. Reading a field back from the word it was packed into: request fields (30_encoding.md R50) and response
lanes (R51). -/

namespace Sys2Proof

section RequestFields

variable (op final : BitVec 1) (nreal : BitVec 2) (d3 d2 d1 d0 : Byte)

theorem reqByte0_packRequest : reqByte0 (packRequest op final nreal d3 d2 d1 d0) = d0 :=
  BitVec.extractLsb'_append_eq_right

theorem reqByte1_packRequest : reqByte1 (packRequest op final nreal d3 d2 d1 d0) = d1 := by
  change BitVec.extractLsb' 8 8 (op ++ final ++ nreal ++ d3 ++ d2 ++ d1 ++ d0) = d1
  rw [BitVec.extractLsb'_append_eq_of_le (by decide), BitVec.extractLsb'_append_eq_right]

theorem reqByte2_packRequest : reqByte2 (packRequest op final nreal d3 d2 d1 d0) = d2 := by
  change BitVec.extractLsb' 16 8 (op ++ final ++ nreal ++ d3 ++ d2 ++ d1 ++ d0) = d2
  rw [BitVec.extractLsb'_append_eq_of_le (by decide), BitVec.extractLsb'_append_eq_of_le (by decide),
    BitVec.extractLsb'_append_eq_right]

theorem reqByte3_packRequest : reqByte3 (packRequest op final nreal d3 d2 d1 d0) = d3 := by
  change BitVec.extractLsb' 24 8 (op ++ final ++ nreal ++ d3 ++ d2 ++ d1 ++ d0) = d3
  rw [BitVec.extractLsb'_append_eq_of_le (by decide), BitVec.extractLsb'_append_eq_of_le (by decide),
    BitVec.extractLsb'_append_eq_of_le (by decide), BitVec.extractLsb'_append_eq_right]

theorem reqNreal_packRequest : reqNreal (packRequest op final nreal d3 d2 d1 d0) = nreal := by
  change BitVec.extractLsb' 32 2 (op ++ final ++ nreal ++ d3 ++ d2 ++ d1 ++ d0) = nreal
  rw [BitVec.extractLsb'_append_eq_of_le (by decide), BitVec.extractLsb'_append_eq_of_le (by decide),
    BitVec.extractLsb'_append_eq_of_le (by decide), BitVec.extractLsb'_append_eq_of_le (by decide),
    BitVec.extractLsb'_append_eq_right]

theorem reqFinal_packRequest : reqFinal (packRequest op final nreal d3 d2 d1 d0) = final := by
  change BitVec.extractLsb' 34 1 (op ++ final ++ nreal ++ d3 ++ d2 ++ d1 ++ d0) = final
  rw [BitVec.extractLsb'_append_eq_of_le (by decide), BitVec.extractLsb'_append_eq_of_le (by decide),
    BitVec.extractLsb'_append_eq_of_le (by decide), BitVec.extractLsb'_append_eq_of_le (by decide),
    BitVec.extractLsb'_append_eq_of_le (by decide), BitVec.extractLsb'_append_eq_right]

theorem reqOp_packRequest : reqOp (packRequest op final nreal d3 d2 d1 d0) = op := by
  change BitVec.extractLsb' 35 1 (op ++ final ++ nreal ++ d3 ++ d2 ++ d1 ++ d0) = op
  rw [BitVec.extractLsb'_append_eq_of_le (by decide), BitVec.extractLsb'_append_eq_of_le (by decide),
    BitVec.extractLsb'_append_eq_of_le (by decide), BitVec.extractLsb'_append_eq_of_le (by decide),
    BitVec.extractLsb'_append_eq_of_le (by decide), BitVec.extractLsb'_append_eq_left]

end RequestFields

namespace Machine

theorem rspN_packResponse (n : BitVec 2) (q : BitVec 32) : rspN (packResponse n q) = n :=
  BitVec.extractLsb'_append_eq_left

theorem rspQ_packResponse (n : BitVec 2) (q : BitVec 32) : rspQ (packResponse n q) = q :=
  BitVec.extractLsb'_append_eq_right

section ResponseLanes

variable (n : BitVec 2) (x3 x2 x1 x0 : Byte)

theorem rspLane3_packResponse : rspLane3 (packResponse n (lanes x3 x2 x1 x0)) = x3 := by
  change BitVec.extractLsb' 24 8 (n ++ (x3 ++ x2 ++ x1 ++ x0)) = x3
  rw [BitVec.extractLsb'_append_eq_of_add_le (by decide), BitVec.extractLsb'_append_eq_of_le (by decide),
    BitVec.extractLsb'_append_eq_of_le (by decide), BitVec.extractLsb'_append_eq_left]

theorem rspLane2_packResponse : rspLane2 (packResponse n (lanes x3 x2 x1 x0)) = x2 := by
  change BitVec.extractLsb' 16 8 (n ++ (x3 ++ x2 ++ x1 ++ x0)) = x2
  rw [BitVec.extractLsb'_append_eq_of_add_le (by decide), BitVec.extractLsb'_append_eq_of_le (by decide),
    BitVec.extractLsb'_append_eq_of_le (by decide), BitVec.extractLsb'_append_eq_right]

theorem rspLane1_packResponse : rspLane1 (packResponse n (lanes x3 x2 x1 x0)) = x1 := by
  change BitVec.extractLsb' 8 8 (n ++ (x3 ++ x2 ++ x1 ++ x0)) = x1
  rw [BitVec.extractLsb'_append_eq_of_add_le (by decide), BitVec.extractLsb'_append_eq_of_le (by decide),
    BitVec.extractLsb'_append_eq_right]

theorem rspLane0_packResponse : rspLane0 (packResponse n (lanes x3 x2 x1 x0)) = x0 := by
  change BitVec.extractLsb' 0 8 (n ++ (x3 ++ x2 ++ x1 ++ x0)) = x0
  rw [BitVec.extractLsb'_append_eq_of_add_le (by decide), BitVec.extractLsb'_append_eq_right]

end ResponseLanes

end Machine

end Sys2Proof
end

