-- ==== Sys2Proof/Laws/PerInstr.lean ====
section
/-! SUPPORT. Facts about the operations as syntax, one lemma per constructor. -/

namespace Sys2Proof.Laws.Selector

/-- The selector bits that 30_encoding.md R52 gives the operation's row. -/
def row : Instr → BitVec 1 × Option (BitVec 1)
  | .encw _ _ _ => (0, some 0)
  | .encwf _ _ _ _ => (0, some 1)
  | .decw _ _ _ _ => (1, none)

/-- The operation's word has its row's `op`, and its row's `final` where the row fixes one (R52). -/
def Statement (i : Instr) : Prop :=
  reqOp (encode i) = (row i).1 ∧ ∀ f ∈ (row i).2, reqFinal (encode i) = f

theorem encw (b0 b1 b2 : Byte) : Statement (.encw b0 b1 b2) := by
  simp [Statement, row, encode, reqOp_packRequest, reqFinal_packRequest]

theorem encwf (k : BitVec 2) (b0 b1 b2 : Byte) : Statement (.encwf k b0 b1 b2) := by
  simp [Statement, row, encode, reqOp_packRequest, reqFinal_packRequest]

theorem decw (c0 c1 c2 c3 : Character) : Statement (.decw c0 c1 c2 c3) := by
  simp [Statement, row, encode, reqOp_packRequest]

end Sys2Proof.Laws.Selector
end

