-- ==== Sys2Proof/Laws/Rom.lean ====
section
/-! SUPPORT. The two tables: every address a lookup forms lies in its table, and what a character's value says of the
character (40_alphabet_rom.md). -/

namespace Sys2Proof.Machine

theorem fwdRom_length : fwdRom.length = 64 := by decide

theorem invRom_length : invRom.length = 256 := by decide +kernel

/-- A forward lookup never reads past the table (20_memory.md R37). -/
theorem sym_reads_an_entry (v : Sextet) : fwdRom[v.toNat]? = some (sym v) := by
  have h : v.toNat < fwdRom.length := by rw [fwdRom_length]; exact v.isLt
  simp [sym, memRead, h]

/-- An inverse lookup never reads past the table (20_memory.md R37). -/
theorem val_reads_an_entry (c : Character) : invRom[c.toNat]? = some (val c) := by
  have h : c.toNat < invRom.length := by rw [invRom_length]; exact c.isLt
  simp [val, memRead, h]

/-- `=` is never invalid: its value is 0 (R75). -/
theorem val_padChar : val padChar = 0 := by decide

theorem isInvalid_padChar : isInvalid padChar = false := by decide

/-- A value that is no sentinel has bits 7 and 6 zero (R72). -/
theorem val_le_of_valid (c : Character) (h : isInvalid c = false) : val c ≤ 0x3F := by
  revert c; decide

/-- A valid character other than `=` is a symbol. -/
theorem isSymbol_of_valid (c : Character) (h : isInvalid c = false) (hp : c ≠ padChar) : isSymbol c = true := by
  revert c; decide

theorem isInvalid_of_isSymbol (c : Character) (h : isSymbol c = true) : isInvalid c = false := by
  revert c; decide

theorem isSymbol_sym (v : Sextet) : isSymbol (sym v) = true := by
  revert v; decide

theorem sym_ne_padChar (v : Sextet) : sym v ≠ padChar := by
  revert v; decide

end Sys2Proof.Machine
end

