-- ==== Sys2Proof/Tests/Slice0.lean ====
section
/-! SUPPORT. The model's own tests: well-formedness, words written out from the spec's encodings, vectors of
95_test_vectors.md, and for each statement with hypotheses a state and operands that meet them. -/

namespace Sys2Proof.Tests

open Sys2Proof.Machine

/-! ### Well-formedness (30_encoding.md R58) -/

theorem test_encwf_count_0_is_ill_formed : ¬ WellFormed (.encwf 0 0x4D 0x61 0x6E) := by decide

theorem test_encwf_count_3_is_well_formed : WellFormed (.encwf 3 0x4D 0x61 0x6E) := by decide

/-! ### Words written out bit by bit from the table of 30_encoding.md R50, R52 -/

/-- `ENCW 0x4D, 0x61, 0x6E`: op 0, final 0, nreal 10 and top data byte 0xAB ignored (vector E24). -/
theorem test_decode_encw :
    decode 0b001010101011010011010110000101101110#36 = .encw 0x4D 0x61 0x6E := by decide

/-- `ENCWF 2, 0x4D, 0x61, 0x00`: op 0, final 1, nreal 10 (vector E11). -/
theorem test_decode_encwf :
    decode 0b011000000000010011010110000100000000#36 = .encwf 2 0x4D 0x61 0x00 := by decide

/-- `DECW "TWFu"`: op 1, final 1 and nreal 11 ignored (vector X54). -/
theorem test_decode_decw :
    decode 0b111101010100010101110100011001110101#36 = .decw 0x54 0x57 0x46 0x75 := by decide

/-- A number wider than 36 bits is no request (R60). -/
theorem test_decode_rejects_37_bits : decodeNumber 0x1000000000 = .error .widerThanRequest := by decide

/-- The assembler's words (R61 examples). -/
theorem test_encode_words :
    encode (.encw 0x4D 0x61 0x6E) = 0x0004D616E#36 ∧ encode (.encwf 1 0x4D 0 0) = 0x5004D0000#36 ∧
      encode (.decw 0x54 0x57 0x46 0x75) = 0x854574675#36 := by decide

/-! ### Vectors, each one step from reset on the request word -/

/-- The response recorded by one step on a request word; none where the step stops. -/
def answer (r : Request) : Option Response :=
  match step (State.reset.withFetchWord 40 r.toNat) with
  | .next t => t.responses.getLast?
  | .fault _ => none
  | .refused _ => none

/-- Vector E6: `ENCW 0x00,0x10,0x83` gives "ABCD", so the lanes are in order. -/
theorem test_encw_lane_order : answer 0x000001083#36 = some 0x341424344#34 := by decide

/-- Vector E5: `ENCW 0xFB,0xFF,0xBF` gives "+/+/", the two ends of the alphabet. -/
theorem test_encw_last_symbols : answer 0x000FBFFBF#36 = some 0x32B2F2B2F#34 := by decide

/-- Vector E10: a second real byte of 0x00 keeps its third symbol `A`. -/
theorem test_encwf_keeps_data_A : answer 0x6004D0000#36 = some 0x25451413D#34 := by decide

/-- Vector E20: bits beyond the count reach `s1`. -/
theorem test_encwf_does_not_mask : answer 0x5004DF000#36 = some 0x154663D3D#34 := by decide

/-- Vector X15: after `=` at position 2 an invalid position 3 is not examined. -/
theorem test_decw_ignores_after_pad : answer 0x854513D21#36 = some 0x1004D0000#34 := by decide

/-- Vector X14: an invalid position 2 is tested before `=` at position 3. -/
theorem test_decw_invalid_before_pad : answer 0x85457213D#36 = some 0x000000000#34 := by decide

/-- Vector E25: the reserved request is declined. -/
theorem test_reserved_is_refused : answer 0x4004D616E#36 = none := by decide

/-! ### The host (95_test_vectors.md section 6) -/

/-- What a run of the host's Decoder from reset issued and returned. -/
def decodeRun (text : List Character) : Option (List Request × DecodeResult) :=
  match hostDecode text text.length State.reset with
  | .next (t, r) => some (t.issued, r)
  | .fault _ => none
  | .refused _ => none

/-- Program P3: "TQ==TWFu" fails with TruncatedGroup and no second request is issued. -/
theorem test_host_truncated_group :
    decodeRun [0x54, 0x51, 0x3D, 0x3D, 0x54, 0x57, 0x46, 0x75] =
      some ([0x854513D3D#36], .failed .truncatedGroup) := by decide

/-- Program P4: "TW Fu\nTWF!" is filtered, then fails with InvalidCharacter at its second group. -/
theorem test_host_invalid_character :
    decodeRun [0x54, 0x57, 0x20, 0x46, 0x75, 0x0A, 0x54, 0x57, 0x46, 0x21] =
      some ([0x854574675#36, 0x854574621#36], .failed .invalidCharacter) := by decide

/-- Example S5: "TWF\nu" decodes to 4D 61 6E. -/
theorem test_host_decodes_through_whitespace :
    decodeRun [0x54, 0x57, 0x46, 0x0A, 0x75] = some ([0x854574675#36], .decoded [0x4D, 0x61, 0x6E] 3) := by decide

/-- What a run of the host's Encoder from reset issued, and the text without the terminator. -/
def encodeRun (bytes : List Byte) : Option (List Request × List Character) :=
  match encodeGroups bytes State.reset [] with
  | .next (t, text) => some (t.issued, text)
  | .fault _ => none
  | .refused _ => none

/-- Program P1: [4D 61 6E 4D] encodes to "TWFuTQ==". -/
theorem test_host_encodes_a_short_group :
    encodeRun [0x4D, 0x61, 0x6E, 0x4D] =
      some ([0x0004D616E#36, 0x5004D0000#36], [0x54, 0x57, 0x46, 0x75, 0x54, 0x51, 0x3D, 0x3D]) := by decide

/-! ### The assembler (30_encoding.md R61, R62) -/

theorem test_assemble_encw :
    assembleLine "ENCW 0x4D, 97, 0x6E ; TWFu".toList = .operation (.encw 0x4D 0x61 0x6E) := by decide +kernel

theorem test_assemble_encwf_count_0_is_malformed :
    assembleLine "ENCWF 0, 0x4D, 0, 0".toList = .malformed := by decide +kernel

/-- Vector X17: a quoted text with a blank in it. -/
theorem test_assemble_decw_text :
    assembleLine ['D', 'E', 'C', 'W', ' ', Char.ofNat 34, 'T', 'Q', '=', ' ', Char.ofNat 34] =
      .operation (.decw 0x54 0x51 0x3D 0x20) := by decide +kernel

/-- Vectors E34 and E35. -/
theorem test_assemble_pseudo_operations :
    assemble ["ENCW1 0x4D".toList, "; a comment".toList, "ENCW2 0x4D, 0x61".toList] =
      some [0x5004D0000#36, 0x6004D6100#36] := by decide +kernel

/-- The response of vector E1 in 9 digits. -/
theorem test_response_digits : responseDigits 0x354574675#34 = "354574675".toList := by decide +kernel

/-! ### Witnesses: operands and states that meet the hypotheses of each statement -/

theorem witness_RequestSelectsExactlyOneOperation :
    0x3FFFFFFFF#36 &&& 0xC00000000#36 = 0x000000000#36 ∧ 0x7FFFFFFFF#36 &&& 0xC00000000#36 = 0x400000000#36 ∧
      0xFFFFFFFFF#36 &&& 0x800000000#36 = 0x800000000#36 ∧ 0x800000000#36 &&& 0x800000000#36 = 0x800000000#36 := by
  decide

theorem witness_IgnoredFieldsHaveNoEffect_encw :
    (0x0004D616E#36 &&& 0xC00000000#36 = 0x000000000#36 ∧
      0x3FF4D616E#36 &&& 0xC00FFFFFF#36 = 0x0004D616E#36 &&& 0xC00FFFFFF#36) ∧
    ∃ t, step (present 0x0004D616E#36 State.reset) = .next t := ⟨by decide, _, rfl⟩

theorem witness_IgnoredFieldsHaveNoEffect_encwf :
    (0x5004D0000#36 &&& 0xC00000000#36 = 0x400000000#36 ∧
      0x5FF4D0000#36 &&& 0xF00FFFFFF#36 = 0x5004D0000#36 &&& 0xF00FFFFFF#36) ∧
    ∃ t, step (present 0x5004D0000#36 State.reset) = .next t := ⟨by decide, _, rfl⟩

theorem witness_IgnoredFieldsHaveNoEffect_decw :
    (0x854574675#36 &&& 0x800000000#36 = 0x800000000#36 ∧
      0xF54574675#36 &&& 0x8FFFFFFFF#36 = 0x854574675#36 &&& 0x8FFFFFFFF#36) ∧
    ∃ t, step (present 0x854574675#36 State.reset) = .next t := ⟨by decide, _, rfl⟩

theorem witness_ReservedRequestIsRefused :
    (0x400000000#36).extractLsb' 32 4 = 4#4 ∧ (0x4FFFFFFFF#36).extractLsb' 32 4 = 4#4 ∧
      (0x500000000#36).extractLsb' 32 4 ≠ 4#4 ∧ (0x3FFFFFFFF#36).extractLsb' 32 4 ≠ 4#4 := by decide

theorem witness_AssemblerReadsWhatIsWritten : WellFormed (.encwf 1 0xFF 0 0) := by decide

theorem witness_ForwardRomIsTheAlphabet : sym 63 = sym 63 := rfl

theorem witness_LookupsAreMutuallyInverse : isSymbol 0x2F = true := by decide

theorem witness_BitShufflerSplitsTheGroup : (0x4D616E#24 : Group24) = (0x4D#8 : Byte) ++ 0x61#8 ++ 0x6E#8 := by decide

theorem witness_EncwAnswersFourSymbols :
    (0xFFFFFF#24 : Group24) = (0xFF#8 : Byte) ++ 0xFF#8 ++ 0xFF#8 ∧
      0x3FFFFFFFF#36 &&& 0xC00000000#36 = 0x000000000#36 := by decide

theorem witness_EncwfPadsFromTheCount :
    (1 : BitVec 2) ≠ 0 ∧ (3 : BitVec 2) ≠ 0 ∧ (0x4D0000#24 : Group24) = (0x4D#8 : Byte) ++ 0x00#8 ++ 0x00#8 ∧
      0x5004D0000#36 &&& 0xC00000000#36 = 0x400000000#36 ∧ (0x5004D0000#36).extractLsb' 32 2 ≠ 0#2 := by decide

/-- For the statements that take a real-byte count: a count for each of their clauses. -/
theorem witness_PaddingIsDecidedByTheCount : (1 : BitVec 2) ≠ 0 ∧ (2 : BitVec 2) ≠ 0 ∧ (3 : BitVec 2) ≠ 0 := by decide

theorem witness_BytesBeyondTheCountAreNotMasked :
    ((2 : BitVec 2) ≠ 0 ∧ (2 : BitVec 2) ≠ 1) ∧ ((3 : BitVec 2) ≠ 0 ∧ (3 : BitVec 2) = 3) := by decide

theorem witness_WordRoundTripReturnsTheRealBytes : (1 : BitVec 2) ≠ 0 ∧ (3 : BitVec 2) ≠ 0 := by decide

theorem witness_DecwFollowsTheNumberedTests_operands :
    ∃ v0 v1 v2 v3 y0 y1 y2 : Byte, v0 = val 0x54 ∧ v1 = val 0x57 ∧ v2 = val 0x46 ∧ v3 = val 0x75 ∧
      y0 = (v0 <<< 2) ||| (v1 >>> 4) ∧ y1 = ((v1 &&& 0x0F#8) <<< 4) ||| (v2 >>> 2) ∧
      y2 = ((v2 &&& 0x03#8) <<< 6) ||| v3 := ⟨_, _, _, _, _, _, _, rfl, rfl, rfl, rfl, rfl, rfl, rfl⟩

theorem witness_DecwFollowsTheNumberedTests_request :
    0xF54574675#36 &&& 0x800000000#36 = 0x800000000#36 ∧
      ∃ t, exec (.decw ((0xF54574675#36).extractLsb' 24 8) ((0xF54574675#36).extractLsb' 16 8)
        ((0xF54574675#36).extractLsb' 8 8) ((0xF54574675#36).extractLsb' 0 8)) State.reset = .next t :=
  ⟨by decide, _, rfl⟩

theorem witness_InversePackingUndoesTheSplit : (0x3F : Byte) ≤ 0x3F ∧ (0 : Byte) ≤ 0x3F := by decide

/-- "T!==", "TQ=!", "TW!=", "TWE=", "TWF!" and "TWFu": one group for each clause. -/
theorem witness_EarlierTestOfAGroupWins :
    (val 0x21 = 0xFF#8) ∧ (val 0x54 ≠ 0xFF#8 ∧ val 0x51 ≠ 0xFF#8 ∧ (0x3D : Character) = 0x3D#8) ∧
      (val 0x54 ≠ 0xFF#8 ∧ val 0x57 ≠ 0xFF#8 ∧ (0x46 : Character) ≠ 0x3D#8 ∧ val 0x46 ≠ 0xFF#8) ∧
      ((0x75 : Character) ≠ 0x3D#8 ∧ val 0x75 ≠ 0xFF#8) := by decide

/-- "TWF!", "TQ==" and "TWE=": a group for each count below 3. -/
theorem witness_UnproducedBytesReadZero :
    rspN (decwResponse 0x54 0x57 0x46 0x21) = 0 ∧ rspN (decwResponse 0x54 0x51 0x3D 0x3D) = 1 ∧
      rspN (decwResponse 0x54 0x57 0x45 0x3D) = 2 := by decide

/-- `Q` and `R` differ in a discarded bit only, and so do `E` and `F`. -/
theorem witness_DiscardedBitsAreNotChecked :
    (val 0x51 ≠ 0xFF#8 ∧ val 0x52 ≠ 0xFF#8 ∧ (val 0x51).extractLsb' 4 2 = (val 0x52).extractLsb' 4 2) ∧
      (isSymbol 0x45 = true ∧ isSymbol 0x46 = true ∧ (val 0x45).extractLsb' 2 4 = (val 0x46).extractLsb' 2 4) := by
  decide

theorem witness_OnlyInvalidCharactersFail :
    WellFormed (.decw 0x54 0x57 0x46 0x21) ∧ rspN (decwResponse 0x54 0x57 0x46 0x21) = 0 := by decide

theorem witness_StepAnswersOrRefuses :
    0x5004D0000#36 &&& 0xF00000000#36 ≠ 0x400000000#36 ∧ 0x4004D0000#36 &&& 0xF00000000#36 = 0x400000000#36 := by
  decide

/-- A state in the middle of a run: one request answered, one still to be presented. -/
def midRun : State where
  pending := [0x854574675#36]
  issued := [0x0004D616E#36]
  responses := [0x354574675#34]

theorem witness_StepRunsTheDecodedOperation : midRun.pending = [0x854574675#36] := rfl

theorem witness_StepWithoutRequestChangesNothing : ({ midRun with pending := [] } : State).pending = [] := rfl

theorem witness_ResponseDependsOnTheRequestAlone :
    ∃ t, exec (.decw 0x54 0x57 0x46 0x75) midRun = .next t := ⟨_, rfl⟩

theorem witness_RspIsTheFunctionOfReq :
    reqPort midRun = reqPort { midRun with issued := [], responses := [] } ∧
      reqPort midRun = some 0x854574675#36 ∧ rspPort midRun = some 0x3004D616E#34 := by decide

theorem witness_ResetLeavesNothingAndTheFirstRequestIsOrdinary :
    blockFunction 0x0004D616E#36 = some 0x354574675#34 := by decide

theorem witness_EveryStepKeepsResponsesMatched : ResponsesMatch midRun ∧ ∃ t, step midRun = .next t :=
  ⟨by unfold ResponsesMatch; decide, _, rfl⟩

theorem witness_EveryStepKeepsResponsesLegal : ResponsesLegal midRun ∧ ∃ t, step midRun = .next t :=
  ⟨by simp only [ResponsesLegal, midRun, List.forall_mem_singleton, EncodeForm, DecodeForm]; decide, _, rfl⟩

/-- For both statements about a host that keeps O3. -/
theorem witness_ProgramIsAnsweredRequestByRequest : HostObeysO3 midRun := by
  simp only [HostObeysO3, midRun, List.forall_mem_singleton]; decide

theorem witness_ObedientHostIsNeverStopped :
    HostObeysO3 { midRun with pending := [0x3FFFFFFFF#36, 0x500000000#36, 0xFFFFFFFFF#36] } := by
  simp only [HostObeysO3, List.forall_mem_cons]; exact ⟨by decide, by decide, by decide, by simp⟩

theorem witness_FilterRemovesExactlyWhitespace :
    (0x21 : Character) ≠ 0x20#8 ∧ (0x21 : Character) ≠ 0x09#8 ∧ (0x21 : Character) ≠ 0x0D#8 ∧
      (0x21 : Character) ≠ 0x0A#8 ∧
      filterWhitespace [0x54, 0x57, 0x46, 0x0A, 0x75] = filterWhitespace [0x54, 0x57, 0x46, 0x75] := by decide

/-- Example S7 "TWFuT", and a text of whitespace only. -/
theorem witness_LengthIsCheckedBeforeAnyRequest :
    (filterWhitespace (([0x54, 0x57, 0x46, 0x75, 0x54] : List Character).take 5)).length % 4 ≠ 0 ∧
      filterWhitespace (([0x20, 0x0A, 0x09, 0x0D] : List Character).take 4) = [] := by decide

/-- The groups "TWFu", "TQ==", "TWE=" and "TWF!". -/
def groupOf3 : TextGroup := ⟨0x54, 0x57, 0x46, 0x75⟩
def groupOf1 : TextGroup := ⟨0x54, 0x51, 0x3D, 0x3D⟩
def groupOf2 : TextGroup := ⟨0x54, 0x57, 0x45, 0x3D⟩
def groupOf0 : TextGroup := ⟨0x54, 0x57, 0x46, 0x21⟩

theorem witness_ShortGroupBeforeTheLastIsTruncated :
    (∀ h ∈ [groupOf3], rspN h.response = 3) ∧ rspN groupOf1.response = 1 ∧ rspN groupOf2.response = 2 ∧
      [groupOf3] ≠ [] := by decide

theorem witness_FailedGroupIsAnInvalidCharacter :
    (∀ h ∈ [groupOf3], rspN h.response = 3) ∧ rspN groupOf0.response = 0 := by decide

theorem witness_HostDecoderConcatenatesTheBytes :
    (∀ h ∈ [groupOf3], rspN h.response = 3) ∧ rspN groupOf2.response ≠ 0 ∧ rspN groupOf3.response ≠ 0 := by decide

theorem witness_HostDecoderAlwaysCompletes : ResponsesMatch midRun := by unfold ResponsesMatch; decide

/-- "T Q=\n=" is the text that [4D] encodes to, spaced. -/
theorem witness_DecodeOfEncodeReturnsTheBuffer :
    filterWhitespace [0x54, 0x20, 0x51, 0x3D, 0x0A, 0x3D] =
      (encodeResultOf [0x54, 0x51, 0x3D, 0x3D]).buffer.take (encodeResultOf [0x54, 0x51, 0x3D, 0x3D]).length := by
  rw [encodeResultOf, List.take_left]; decide

/-- "TWFu TWE=", "TQ==" and the empty text are canonical; "TR==" and "TWF=" are not. -/
theorem witness_EncodeOfDecodeReturnsCanonicalText :
    canonicalText (filterWhitespace [0x54, 0x57, 0x46, 0x75, 0x20, 0x54, 0x57, 0x45, 0x3D]) = true ∧
      canonicalText (filterWhitespace [0x54, 0x51, 0x3D, 0x3D]) = true ∧ canonicalText (filterWhitespace []) = true ∧
      canonicalText [0x54, 0x52, 0x3D, 0x3D] = false ∧ canonicalText [0x54, 0x57, 0x46, 0x3D] = false := by decide

end Sys2Proof.Tests
end

section
/-! PROOFS. The statements of 10_state.md: the response depends on the request alone (R10), and `rsp` is the block's
function of `req` (R17, R18). -/

namespace Sys2Proof.Machine

/-! ### What the ports show -/

/-- A word stands on `req` exactly when it is the first pending request (R17). -/
theorem reqPort_eq_some_iff {s : State} {r : Request} : reqPort s = some r ↔ s.pending = r :: s.pending.tail := by
  constructor
  · exact fun h => (List.cons_head?_tail h).symm
  · intro h
    rw [reqPort, h, List.head?_cons]

/-- While a word is presented, `rsp` is the block's function of it (R18). -/
theorem rspPort_of_reqPort {s : State} {r : Request} (h : reqPort s = some r) : rspPort s = blockFunction r := by
  rw [rspPort, h, Option.bind_some]

/-- `rsp` has a value exactly when the block's function gives the presented word that value (R18, R21, R58). -/
theorem rspPort_eq_some_iff {s : State} {p : Response} :
    rspPort s = some p ↔ ∃ r, reqPort s = some r ∧ blockFunction r = some p :=
  Option.bind_eq_some_iff

/-! ### The obligations -/

/-- Settles O33: an operation that completes has a response, which is a function of the operation alone, so every state
is answered with it. -/
theorem responseDependsOnTheRequestAlone : Obligations.ResponseDependsOnTheRequestAlone := by
  intro i s s' t h
  obtain ⟨p, hp, rfl⟩ := exec_next_cases h
  exact ⟨p, rfl, rfl, rfl, exec_of_responseOf hp s'⟩

/-- Settles O34: `rsp` reads a state through `req` only, and where it has a value the first pending request has that
response, which the step records. -/
theorem rspIsTheFunctionOfReq : Obligations.RspIsTheFunctionOfReq := by
  refine ⟨?_, ?_, ?_⟩
  · intro s s' h
    rw [rspPort, h, rspPort]
  · intro s r h
    exact rspPort_of_reqPort h
  · intro s p h
    obtain ⟨r, hr, hp⟩ := rspPort_eq_some_iff.mp h
    exact ⟨r, hr, step_of_blockFunction (reqPort_eq_some_iff.mp hr) hp⟩

end Sys2Proof.Machine
end

section
/-! PROOFS. The statements of 30_encoding.md: the rows of the operation table (R52, R54, R55), the ignored fields
(R57), and the reserved request (R58, R59). Each mask of the spec is written as a packed word, so that masking a request
is masking its fields. -/

namespace Sys2Proof

/-! ### A request word and its fields (R50) -/

/-- A request word is the packing of its own fields. -/
theorem packRequest_fields (r : Request) :
    packRequest (reqOp r) (reqFinal r) (reqNreal r) (reqByte3 r) (reqByte2 r) (reqByte1 r) (reqByte0 r) = r := by
  unfold packRequest reqOp reqFinal reqNreal reqByte3 reqByte2 reqByte1 reqByte0
  simp only [BitVec.extractLsb'_append_extractLsb'_eq_extractLsb']
  exact BitVec.extractLsb'_eq_self

/-- Two packed words are equal exactly when all their fields are. -/
theorem packRequest_inj {op op' final final' : BitVec 1} {nreal nreal' : BitVec 2}
    {d3 d3' d2 d2' d1 d1' d0 d0' : Byte} :
    packRequest op final nreal d3 d2 d1 d0 = packRequest op' final' nreal' d3' d2' d1' d0' ↔
      op = op' ∧ final = final' ∧ nreal = nreal' ∧ d3 = d3' ∧ d2 = d2' ∧ d1 = d1' ∧ d0 = d0' := by
  constructor
  · intro h
    refine ⟨?_, ?_, ?_, ?_, ?_, ?_, ?_⟩
    · simpa only [reqOp_packRequest] using congrArg reqOp h
    · simpa only [reqFinal_packRequest] using congrArg reqFinal h
    · simpa only [reqNreal_packRequest] using congrArg reqNreal h
    · simpa only [reqByte3_packRequest] using congrArg reqByte3 h
    · simpa only [reqByte2_packRequest] using congrArg reqByte2 h
    · simpa only [reqByte1_packRequest] using congrArg reqByte1 h
    · simpa only [reqByte0_packRequest] using congrArg reqByte0 h
  · rintro ⟨rfl, rfl, rfl, rfl, rfl, rfl, rfl⟩
    rfl

/-- Masking acts on each field by itself. -/
theorem packRequest_and (op op' final final' : BitVec 1) (nreal nreal' : BitVec 2)
    (d3 d3' d2 d2' d1 d1' d0 d0' : Byte) :
    packRequest op final nreal d3 d2 d1 d0 &&& packRequest op' final' nreal' d3' d2' d1' d0' =
      packRequest (op &&& op') (final &&& final') (nreal &&& nreal') (d3 &&& d3') (d2 &&& d2') (d1 &&& d1')
        (d0 &&& d0') := by
  change op ++ final ++ nreal ++ d3 ++ d2 ++ d1 ++ d0 &&& op' ++ final' ++ nreal' ++ d3' ++ d2' ++ d1' ++ d0' = _
  iterate 6 rw [BitVec.and_append]
  rfl

/-- A masked request word, field by field. -/
theorem and_packRequest (r : Request) (op final : BitVec 1) (nreal : BitVec 2) (d3 d2 d1 d0 : Byte) :
    r &&& packRequest op final nreal d3 d2 d1 d0 =
      packRequest (reqOp r &&& op) (reqFinal r &&& final) (reqNreal r &&& nreal) (reqByte3 r &&& d3)
        (reqByte2 r &&& d2) (reqByte1 r &&& d1) (reqByte0 r &&& d0) := by
  rw [← packRequest_and, packRequest_fields]

/-! ### The rows of the operation table (R52) -/

/-- Bits 35:34 of a request word are `op` and `final`. -/
theorem and_selectorMask_eq_iff (r : Request) (op final : BitVec 1) :
    r &&& 0xC00000000#36 = packRequest op final 0 0 0 0 0 ↔ reqOp r = op ∧ reqFinal r = final := by
  rw [show 0xC00000000#36 = packRequest (.allOnes 1) (.allOnes 1) 0 0 0 0 0 by decide, and_packRequest,
    packRequest_inj]
  simp only [BitVec.and_allOnes, BitVec.ofNat_eq_ofNat, BitVec.and_zero, and_true]

/-- The row of `ENCW` is `op` = 0 and `final` = 0. -/
theorem encwRow_iff (r : Request) : r &&& 0xC00000000#36 = 0x000000000#36 ↔ reqOp r = 0 ∧ reqFinal r = 0 :=
  and_selectorMask_eq_iff r 0 0

/-- The row of `ENCWF` is `op` = 0 and `final` = 1. -/
theorem encwfRow_iff (r : Request) : r &&& 0xC00000000#36 = 0x400000000#36 ↔ reqOp r = 0 ∧ reqFinal r = 1 :=
  and_selectorMask_eq_iff r 0 1

/-- The row of `DECW` is `op` = 1. -/
theorem decwRow_iff (r : Request) : r &&& 0x800000000#36 = 0x800000000#36 ↔ reqOp r = 1 := by
  rw [show 0x800000000#36 = packRequest (.allOnes 1) 0 0 0 0 0 0 by decide, and_packRequest, packRequest_inj]
  simp only [BitVec.and_allOnes, BitVec.ofNat_eq_ofNat, BitVec.and_zero, and_true]
  rfl

/-- The low 24 bits of a request word are the group of its three low bytes (R32, R54). -/
theorem group24_fields (r : Request) :
    Machine.group24 (reqByte2 r) (reqByte1 r) (reqByte0 r) = r.extractLsb' 0 24 := by
  unfold Machine.group24 reqByte2 reqByte1 reqByte0
  simp only [BitVec.extractLsb'_append_extractLsb'_eq_extractLsb']

/-! ### Decoding, row by row (R54, R55) -/

theorem decode_of_encw_row {r : Request} (hop : reqOp r = 0) (hfinal : reqFinal r = 0) :
    decode r = .encw (reqByte2 r) (reqByte1 r) (reqByte0 r) := by
  simp [decode, hop, hfinal]

theorem decode_of_encwf_row {r : Request} (hop : reqOp r = 0) (hfinal : reqFinal r = 1) :
    decode r = .encwf (reqNreal r) (reqByte2 r) (reqByte1 r) (reqByte0 r) := by
  simp [decode, hop, hfinal]

theorem decode_of_decw_row {r : Request} (hop : reqOp r = 1) :
    decode r = .decw (reqByte3 r) (reqByte2 r) (reqByte1 r) (reqByte0 r) := by
  simp [decode, hop]

/-- The three rows cover every request word. -/
theorem row_cases (r : Request) :
    (reqOp r = 0 ∧ reqFinal r = 0) ∨ (reqOp r = 0 ∧ reqFinal r = 1) ∨ reqOp r = 1 := by
  rcases BitVec.eq_zero_or_eq_one (reqOp r) with hop | hop
  · rcases BitVec.eq_zero_or_eq_one (reqFinal r) with hfinal | hfinal
    · exact .inl ⟨hop, hfinal⟩
    · exact .inr (.inl ⟨hop, hfinal⟩)
  · exact .inr (.inr hop)

/-! ### The fields each operation uses (R57) -/

/-- The used bits of `ENCW` besides its selector are its three bytes. -/
theorem decode_eq_of_encw_used {r r' : Request} (hrow : r &&& 0xC00000000#36 = 0x000000000#36)
    (h : r' &&& 0xC00FFFFFF#36 = r &&& 0xC00FFFFFF#36) : decode r' = decode r := by
  obtain ⟨hop, hfinal⟩ := (encwRow_iff r).mp hrow
  rw [show 0xC00FFFFFF#36 =
    packRequest (.allOnes 1) (.allOnes 1) 0 0 (.allOnes 8) (.allOnes 8) (.allOnes 8) by decide] at h
  simp only [and_packRequest, packRequest_inj, BitVec.and_allOnes] at h
  obtain ⟨hop', hfinal', -, -, h2, h1, h0⟩ := h
  rw [decode_of_encw_row hop hfinal, decode_of_encw_row (hop'.trans hop) (hfinal'.trans hfinal), h2, h1, h0]

/-- The used bits of `ENCWF` besides its selector are its count and its three bytes. -/
theorem decode_eq_of_encwf_used {r r' : Request} (hrow : r &&& 0xC00000000#36 = 0x400000000#36)
    (h : r' &&& 0xF00FFFFFF#36 = r &&& 0xF00FFFFFF#36) : decode r' = decode r := by
  obtain ⟨hop, hfinal⟩ := (encwfRow_iff r).mp hrow
  rw [show 0xF00FFFFFF#36 =
    packRequest (.allOnes 1) (.allOnes 1) (.allOnes 2) 0 (.allOnes 8) (.allOnes 8) (.allOnes 8) by decide] at h
  simp only [and_packRequest, packRequest_inj, BitVec.and_allOnes] at h
  obtain ⟨hop', hfinal', hn, -, h2, h1, h0⟩ := h
  rw [decode_of_encwf_row hop hfinal, decode_of_encwf_row (hop'.trans hop) (hfinal'.trans hfinal), hn, h2, h1, h0]

/-- The used bits of `DECW` besides its selector are its four characters. -/
theorem decode_eq_of_decw_used {r r' : Request} (hrow : r &&& 0x800000000#36 = 0x800000000#36)
    (h : r' &&& 0x8FFFFFFFF#36 = r &&& 0x8FFFFFFFF#36) : decode r' = decode r := by
  have hop := (decwRow_iff r).mp hrow
  rw [show 0x8FFFFFFFF#36 =
    packRequest (.allOnes 1) 0 0 (.allOnes 8) (.allOnes 8) (.allOnes 8) (.allOnes 8) by decide] at h
  simp only [and_packRequest, packRequest_inj, BitVec.and_allOnes] at h
  obtain ⟨hop', -, -, h3, h2, h1, h0⟩ := h
  rw [decode_of_decw_row hop, decode_of_decw_row (hop'.trans hop), h3, h2, h1, h0]

theorem encode_encw_ignored (b0 b1 b2 : Byte) : encode (.encw b0 b1 b2) &&& 0x3FF000000#36 = 0 := by
  rw [encode, show 0x3FF000000#36 = packRequest 0 0 (.allOnes 2) (.allOnes 8) 0 0 0 by decide, packRequest_and]
  simp [packRequest]

theorem encode_encwf_ignored (k : BitVec 2) (b0 b1 b2 : Byte) :
    encode (.encwf k b0 b1 b2) &&& 0x0FF000000#36 = 0 := by
  rw [encode, show 0x0FF000000#36 = packRequest 0 0 0 (.allOnes 8) 0 0 0 by decide, packRequest_and]
  simp [packRequest]

theorem encode_decw_ignored (c0 c1 c2 c3 : Character) : encode (.decw c0 c1 c2 c3) &&& 0x700000000#36 = 0 := by
  rw [encode, show 0x700000000#36 = packRequest 0 (.allOnes 1) (.allOnes 2) 0 0 0 0 by decide, packRequest_and]
  simp [packRequest]

/-! ### The reserved request (R58, R59) -/

/-- `req[35:32]` = 4 is the row of `ENCWF` with count 0. -/
theorem reservedBits_iff (r : Request) :
    r.extractLsb' 32 4 = 4#4 ↔ reqOp r = 0 ∧ reqFinal r = 1 ∧ reqNreal r = 0 := by
  have hfields : r.extractLsb' 32 4 = reqOp r ++ reqFinal r ++ reqNreal r := by
    unfold reqOp reqFinal reqNreal
    simp only [BitVec.extractLsb'_append_extractLsb'_eq_extractLsb']
  rw [hfields]
  generalize reqOp r = op, reqFinal r = final, reqNreal r = nreal
  revert op final nreal
  decide

/-- The request words that decode to an operation that is not well-formed are the reserved ones. -/
theorem not_wellFormed_decode_iff (r : Request) : ¬ WellFormed (decode r) ↔ r.extractLsb' 32 4 = 4#4 := by
  rw [reservedBits_iff]
  rcases row_cases r with ⟨hop, hfinal⟩ | ⟨hop, hfinal⟩ | hop
  · simp [decode_of_encw_row hop hfinal, WellFormed, Instr.wellFormed, hfinal]
  · simp [decode_of_encwf_row hop hfinal, WellFormed, Instr.wellFormed, hop, hfinal]
  · simp [decode_of_decw_row hop, WellFormed, Instr.wellFormed, hop]

namespace Machine

/-- The operations without a response are those that are not well-formed (R58). -/
theorem responseOf_eq_none_iff (i : Instr) : responseOf i = none ↔ ¬ WellFormed i := by
  cases i <;> simp [responseOf, WellFormed, Instr.wellFormed]

/-- A presented request without a response is refused. -/
theorem step_present_of_no_response {r : Request} (h : blockFunction r = none) (s : State) :
    step (present r s) = .refused .reservedRealByteCount :=
  exec_of_no_response h _

/-- Words with the same response are answered alike in every state, but for the word recorded as issued. -/
theorem step_present_of_blockFunction_eq {r r' : Request} (heq : blockFunction r' = blockFunction r) {s t : State}
    (h : step (present r s) = .next t) : step (present r' s) = .next { t with issued := s.issued ++ [r'] } := by
  obtain ⟨hnil, -⟩ | ⟨r₀, rest, p, hpending, hp, rfl⟩ := step_next_cases h
  · cases hnil
  · cases hpending
    exact step_of_blockFunction rfl (heq.trans hp)

/-! ### The obligations -/

/-- Settles O1: the selector bits decide the row, and each row's decoding takes the fields its rule names. -/
theorem requestSelectsExactlyOneOperation : Obligations.RequestSelectsExactlyOneOperation := by
  intro r
  simp only [encwRow_iff, encwfRow_iff, decwRow_iff]
  refine ⟨fun ⟨hop, hfinal⟩ => decode_of_encw_row hop hfinal, fun ⟨hop, hfinal⟩ => decode_of_encwf_row hop hfinal,
    fun hop => decode_of_decw_row hop, group24_fields r, ?_⟩
  rcases row_cases r with ⟨hop, hfinal⟩ | ⟨hop, hfinal⟩ | hop
  · simp [hop, hfinal]
  · simp [hop, hfinal]
  · simp [hop]

/-- Settles O4: words that agree on the used bits decode to one operation, and the response and the step see the word
through its operation. -/
theorem ignoredFieldsHaveNoEffect : Obligations.IgnoredFieldsHaveNoEffect := by
  refine ⟨?_, encode_encw_ignored, encode_encwf_ignored, encode_decw_ignored⟩
  intro r r' s t hused
  have hdecode : decode r' = decode r := by
    rcases hused with ⟨hrow, h⟩ | ⟨hrow, h⟩ | ⟨hrow, h⟩
    · exact decode_eq_of_encw_used hrow h
    · exact decode_eq_of_encwf_used hrow h
    · exact decode_eq_of_decw_used hrow h
  have hresponse : blockFunction r' = blockFunction r := congrArg responseOf hdecode
  exact ⟨hresponse, step_present_of_blockFunction_eq hresponse⟩

/-- Settles O6: the reserved words are those that decode to an operation that is not well-formed, and such an operation
has no response and is refused. -/
theorem reservedRequestIsRefused : Obligations.ReservedRequestIsRefused := by
  refine ⟨?_, ?_, ?_⟩
  · intro r s hreserved
    have hwf : ¬ WellFormed (decode r) := (not_wellFormed_decode_iff r).mpr hreserved
    have hnone : blockFunction r = none := (responseOf_eq_none_iff (decode r)).mpr hwf
    exact ⟨hwf, hnone, step_present_of_no_response hnone s⟩
  · intro r hne
    exact Classical.not_not.mp (mt (not_wellFormed_decode_iff r).mp hne)
  · intro b0 b1 b2 s
    exact exec_of_no_response rfl s

end Machine

end Sys2Proof
end

section
/-! PROOFS. The statements of 40_alphabet_rom.md: the contents of the two tables as functions of their address (R71,
R73). Each table is read once for each class of addresses; what is said of a whole table follows from these facts. -/

namespace Sys2Proof.Machine

/-! ### The forward table, class by class (R71) -/

/-- `A` to `Z`. -/
theorem sym_of_le_25 {v : Sextet} (h : v ≤ 25) : sym v = 0x41#8 + v.setWidth 8 := by
  revert v; decide

/-- `a` to `z`. -/
theorem sym_of_le_51 {v : Sextet} (hlow : ¬ v ≤ 25) (h : v ≤ 51) : sym v = 0x61#8 + (v.setWidth 8 - 26) := by
  revert v; decide

/-- `0` to `9`. -/
theorem sym_of_le_61 {v : Sextet} (hlow : ¬ v ≤ 51) (h : v ≤ 61) : sym v = 0x30#8 + (v.setWidth 8 - 52) := by
  revert v; decide

/-- `+`. -/
theorem sym_62 : sym 62 = 0x2B#8 := by decide

/-- `/`. -/
theorem sym_of_last {v : Sextet} (hlow : ¬ v ≤ 61) (h : v ≠ 62) : sym v = 0x2F#8 := by
  revert v; decide

/-- Every symbol is a 7-bit code. -/
theorem sym_lt_0x80 (v : Sextet) : sym v < 0x80#8 := by
  revert v; decide

/-! ### The inverse lookup undoes the forward lookup (R76 item 1) -/

theorem val_sym (v : Sextet) : val (sym v) = v.setWidth 8 := by
  revert v; decide

theorem setWidth_val_sym (v : Sextet) : (val (sym v)).setWidth 6 = v := by
  rw [val_sym, BitVec.setWidth_setWidth_of_le v (by decide), BitVec.setWidth_eq]

theorem sym_injective : Function.Injective sym :=
  Function.LeftInverse.injective (g := fun c => (val c).setWidth 6) setWidth_val_sym

/-! ### The inverse table, class by class (R73) -/

/-- `A` to `Z`. -/
theorem val_of_upperCase {c : Character} (h : 0x41 ≤ c ∧ c ≤ 0x5A) : val c = c - 0x41#8 := by
  revert c; decide

/-- `a` to `z`. -/
theorem val_of_lowerCase {c : Character} (h : 0x61 ≤ c ∧ c ≤ 0x7A) : val c = c - 0x61#8 + 26 := by
  revert c; decide

/-- `0` to `9`. -/
theorem val_of_digit {c : Character} (h : 0x30 ≤ c ∧ c ≤ 0x39) : val c = c - 0x30#8 + 52 := by
  revert c; decide

theorem val_plus : val 0x2B = 62#8 := by decide

theorem val_slash : val 0x2F = 63#8 := by decide

/-- Every other code is invalid. -/
theorem val_of_other {c : Character} (hupper : ¬ (0x41 ≤ c ∧ c ≤ 0x5A)) (hlower : ¬ (0x61 ≤ c ∧ c ≤ 0x7A))
    (hdigit : ¬ (0x30 ≤ c ∧ c ≤ 0x39)) (hplus : c ≠ 0x2B) (hslash : c ≠ 0x2F) (hpad : c ≠ 0x3D) :
    val c = 0xFF#8 := by
  revert c; decide

/-! ### The number of invalid codes (R73) -/

/-- The values of the codes in order are the inverse table. -/
theorem map_val_range : (List.range 256).map (fun c => val (BitVec.ofNat 8 c)) = invRom := by
  apply List.ext_getElem?
  intro n
  rcases Nat.lt_or_ge n 256 with hn | hn
  · have hentry := val_reads_an_entry (BitVec.ofNat 8 n)
    rw [BitVec.toNat_ofNat, Nat.mod_eq_of_lt hn] at hentry
    rw [List.getElem?_map, List.getElem?_range hn, hentry, Option.map_some]
  · rw [List.getElem?_eq_none (by simpa using hn), List.getElem?_eq_none (invRom_length.trans_le hn)]

/-- A value has as many codes as it has entries in the inverse table. -/
theorem length_filter_val_eq (x : Byte) :
    ((List.range 256).filter fun c => val (BitVec.ofNat 8 c) = x).length = invRom.count x := by
  rw [← map_val_range, List.count, List.countP_map, List.countP_eq_length_filter]
  rfl

theorem count_invalidValue_invRom : invRom.count invalidValue = 191 := by decide +kernel

/-! ### The obligations -/

/-- Settles O10: the table is read class by class, the inverse lookup recovers a value from its code, and `=` is no
symbol. -/
theorem forwardRomIsTheAlphabet : Obligations.ForwardRomIsTheAlphabet := by
  refine ⟨?_, fun _ _ h => sym_injective h, fun v => ⟨sym_ne_padChar v, sym_lt_0x80 v⟩⟩
  intro v
  split_ifs with hupper hlower hdigit hplus
  · exact sym_of_le_25 hupper
  · exact sym_of_le_51 hupper hlower
  · exact sym_of_le_61 hlower hdigit
  · rw [hplus, sym_62]
  · exact sym_of_last hdigit hplus

/-- Settles O11: the table is read class by class, and the invalid codes are counted as entries of the table. -/
theorem inverseRomClassifiesEveryCode : Obligations.InverseRomClassifiesEveryCode := by
  refine ⟨?_, (length_filter_val_eq invalidValue).trans count_invalidValue_invRom⟩
  intro c
  split_ifs with hupper hlower hdigit hplus hslash hpad
  · exact val_of_upperCase hupper
  · exact val_of_lowerCase hlower
  · exact val_of_digit hdigit
  · rw [hplus, val_plus]
  · rw [hslash, val_slash]
  · rw [hpad]; exact val_padChar
  · exact val_of_other hupper hlower hdigit hplus hslash hpad

end Sys2Proof.Machine
end

section
/-! PROOFS. The statements of 41_word_encoder.md: the symbols of a full group (R82), the padding of a final one (R84),
and the bytes beyond the count (R85). The characters of a final group are read off lane by lane, and the decoder, run on
them, is worked out for each count. -/

namespace Sys2Proof.Machine

/-! ### Each operation has its response in every state (R82, R83, R101) -/

theorem encw_answers (b0 b1 b2 : Byte) : Answers (.encw b0 b1 b2) (encwResponse b0 b1 b2) :=
  exec_of_responseOf rfl

theorem encwf_answers {k : BitVec 2} (hk : k ≠ 0) (b0 b1 b2 : Byte) :
    Answers (.encwf k b0 b1 b2) (encwfResponse k b0 b1 b2) :=
  exec_of_responseOf (if_neg hk)

theorem decw_answers (c0 c1 c2 c3 : Character) : Answers (.decw c0 c1 c2 c3) (decwResponse c0 c1 c2 c3) :=
  exec_of_responseOf rfl

/-! ### The response of a full group (R82) -/

/-- A response word is its count and its four lanes side by side (R51). -/
theorem packResponse_lanes (n : BitVec 2) (x3 x2 x1 x0 : Byte) :
    packResponse n (lanes x3 x2 x1 x0) = n ++ x3 ++ x2 ++ x1 ++ x0 := by
  simp only [packResponse, lanes, BitVec.append_assoc, BitVec.cast_eq]

theorem encwResponse_eq_append (b0 b1 b2 : Byte) :
    encwResponse b0 b1 b2 =
      3#2 ++ sym (sextet0 (group24 b0 b1 b2)) ++ sym (sextet1 (group24 b0 b1 b2)) ++
        sym (sextet2 (group24 b0 b1 b2)) ++ sym (sextet3 (group24 b0 b1 b2)) :=
  packResponse_lanes _ _ _ _ _

/-- A field of a field is a field of the word. -/
theorem extractLsb'_extractLsb'_of_add_le {w start start' len len' : Nat} (x : BitVec w) (h : start + len ≤ len') :
    (x.extractLsb' start' len').extractLsb' start len = x.extractLsb' (start' + start) len := by
  ext i hi
  have hi' : start + i < len' := by omega
  simp only [BitVec.getElem_extractLsb', BitVec.getLsbD_extractLsb', hi', decide_true, Bool.true_and, Nat.add_assoc]

/-- A request of the row of `ENCW` is answered with the symbols of its low 24 bits, whatever the bits above. -/
theorem blockFunction_of_encw_row {r : Request} (hop : reqOp r = 0) (hfinal : reqFinal r = 0) :
    blockFunction r = some (3#2 ++ sym (r.extractLsb' 18 6) ++ sym (r.extractLsb' 12 6) ++ sym (r.extractLsb' 6 6) ++
      sym (r.extractLsb' 0 6)) := by
  rw [blockFunction, decode_of_encw_row hop hfinal, responseOf, encwResponse_eq_append, group24_fields]
  unfold sextet0 sextet1 sextet2 sextet3
  iterate 4 rw [BitVec.extractLsb'_extractLsb'_of_le (by decide)]

/-! ### The characters of a final group (R83, R84, R85) -/

theorem padsThird_iff (k : BitVec 2) : padsThird k = true ↔ k = 1 := by
  simp [padsThird]

theorem padsFourth_iff (k : BitVec 2) : padsFourth k = true ↔ k = 1 ∨ k = 2 := by
  simp [padsFourth]

/-- A full group is answered as a final group with three real bytes. -/
theorem encwResponse_eq_encwfResponse (b0 b1 b2 : Byte) : encwResponse b0 b1 b2 = encwfResponse 3 b0 b1 b2 := rfl

section FinalGroup

variable (k : BitVec 2) (b0 b1 b2 : Byte)

theorem rspLane3_encwfResponse : rspLane3 (encwfResponse k b0 b1 b2) = sym (sextet0 (group24 b0 b1 b2)) :=
  rspLane3_packResponse _ _ _ _ _

theorem rspLane2_encwfResponse : rspLane2 (encwfResponse k b0 b1 b2) = sym (sextet1 (group24 b0 b1 b2)) :=
  rspLane2_packResponse _ _ _ _ _

theorem rspLane1_encwfResponse :
    rspLane1 (encwfResponse k b0 b1 b2) = if k = 1 then padChar else sym (sextet2 (group24 b0 b1 b2)) := by
  simp only [← padsThird_iff]
  exact rspLane1_packResponse _ _ _ _ _

theorem rspLane0_encwfResponse :
    rspLane0 (encwfResponse k b0 b1 b2) = if k = 1 ∨ k = 2 then padChar else sym (sextet3 (group24 b0 b1 b2)) := by
  simp only [← padsFourth_iff]
  exact rspLane0_packResponse _ _ _ _ _

end FinalGroup

/-- Since `=` is no symbol, a character chosen between `=` and a symbol is `=` exactly when the choice says so. -/
theorem ite_padChar_sym_eq_padChar_iff {c : Prop} [Decidable c] (v : Sextet) :
    (if c then padChar else sym v) = padChar ↔ c := by
  rw [ite_eq_left_iff, imp_iff_not (sym_ne_padChar v), not_not]

/-! ### The inverse packing of 6-bit values, bit by bit (R104) -/

theorem byte0_setWidth (v0 v1 : Sextet) : byte0 (v0.setWidth 8) (v1.setWidth 8) = v0 ++ v1.extractLsb' 4 2 := by
  ext i hi
  rw [BitVec.getElem_append (x := v0) (y := v1.extractLsb' 4 2) hi, byte0]
  interval_cases i <;> simp

theorem byte1_setWidth (v1 v2 : Sextet) :
    byte1 (v1.setWidth 8) (v2.setWidth 8) = v1.extractLsb' 0 4 ++ v2.extractLsb' 2 4 := by
  ext i hi
  rw [BitVec.getElem_append (x := v1.extractLsb' 0 4) (y := v2.extractLsb' 2 4) hi, byte1]
  interval_cases i <;> simp

theorem byte2_setWidth (v2 v3 : Sextet) : byte2 (v2.setWidth 8) (v3.setWidth 8) = v2.extractLsb' 0 2 ++ v3 := by
  ext i hi
  rw [BitVec.getElem_append (x := v2.extractLsb' 0 2) (y := v3) hi, byte2]
  interval_cases i <;> simp

/-! ### Packing the four groups of a split gives its bytes back (R80, R104) -/

theorem byte0_sextets (w : Group24) :
    byte0 ((sextet0 w).setWidth 8) ((sextet1 w).setWidth 8) = w.extractLsb' 16 8 := by
  rw [byte0_setWidth, sextet0, sextet1, extractLsb'_extractLsb'_of_add_le w (by decide)]
  exact BitVec.extractLsb'_append_extractLsb'_eq_extractLsb' rfl

theorem byte1_sextets (w : Group24) :
    byte1 ((sextet1 w).setWidth 8) ((sextet2 w).setWidth 8) = w.extractLsb' 8 8 := by
  rw [byte1_setWidth, sextet1, sextet2, extractLsb'_extractLsb'_of_add_le w (by decide),
    extractLsb'_extractLsb'_of_add_le w (by decide)]
  exact BitVec.extractLsb'_append_extractLsb'_eq_extractLsb' rfl

theorem byte2_sextets (w : Group24) :
    byte2 ((sextet2 w).setWidth 8) ((sextet3 w).setWidth 8) = w.extractLsb' 0 8 := by
  rw [byte2_setWidth, sextet2, sextet3, extractLsb'_extractLsb'_of_add_le w (by decide)]
  exact BitVec.extractLsb'_append_extractLsb'_eq_extractLsb' rfl

section GroupBytes

variable (b0 b1 b2 : Byte)

theorem group24_byte0 : (group24 b0 b1 b2).extractLsb' 16 8 = b0 := by
  change BitVec.extractLsb' 16 8 (b0 ++ b1 ++ b2) = b0
  rw [BitVec.extractLsb'_append_eq_of_le (by decide), BitVec.extractLsb'_append_eq_left]

theorem group24_byte1 : (group24 b0 b1 b2).extractLsb' 8 8 = b1 := by
  change BitVec.extractLsb' 8 8 (b0 ++ b1 ++ b2) = b1
  rw [BitVec.extractLsb'_append_eq_of_le (by decide), BitVec.extractLsb'_append_eq_right]

theorem group24_byte2 : (group24 b0 b1 b2).extractLsb' 0 8 = b2 :=
  BitVec.extractLsb'_append_eq_right

end GroupBytes

/-! ### The decoder on symbols and padding (R101) -/

theorem isInvalid_sym (v : Sextet) : isInvalid (sym v) = false :=
  isInvalid_of_isSymbol _ (isSymbol_sym v)

theorem decwResponse_two_symbols (v0 v1 : Sextet) (c3 : Character) :
    decwResponse (sym v0) (sym v1) padChar c3 =
      decodeResponse 1 (byte0 (v0.setWidth 8) (v1.setWidth 8)) 0 0 := by
  simp [decwResponse, isInvalid_sym, val_sym]

theorem decwResponse_three_symbols (v0 v1 v2 : Sextet) :
    decwResponse (sym v0) (sym v1) (sym v2) padChar =
      decodeResponse 2 (byte0 (v0.setWidth 8) (v1.setWidth 8)) (byte1 (v1.setWidth 8) (v2.setWidth 8)) 0 := by
  simp [decwResponse, isInvalid_sym, sym_ne_padChar, val_sym]

theorem decwResponse_four_symbols (v0 v1 v2 v3 : Sextet) :
    decwResponse (sym v0) (sym v1) (sym v2) (sym v3) =
      decodeResponse 3 (byte0 (v0.setWidth 8) (v1.setWidth 8)) (byte1 (v1.setWidth 8) (v2.setWidth 8))
        (byte2 (v2.setWidth 8) (v3.setWidth 8)) := by
  simp [decwResponse, isInvalid_sym, sym_ne_padChar, val_sym]

/-- The legal real-byte counts (R58). -/
theorem legal_count_cases {k : BitVec 2} (hk : k ≠ 0) : k = 1 ∨ k = 2 ∨ k = 3 := by
  revert k; decide

/-- The decoder returns the count and the real bytes of a final group, and zeros for the others (R85, R106). -/
theorem decwResponse_encwfResponse {k : BitVec 2} (hk : k ≠ 0) (b0 b1 b2 : Byte) :
    decwResponse (rspLane3 (encwfResponse k b0 b1 b2)) (rspLane2 (encwfResponse k b0 b1 b2))
        (rspLane1 (encwfResponse k b0 b1 b2)) (rspLane0 (encwfResponse k b0 b1 b2)) =
      decodeResponse k b0 (if k = 1 then 0 else b1) (if k = 3 then b2 else 0) := by
  rw [rspLane3_encwfResponse, rspLane2_encwfResponse, rspLane1_encwfResponse, rspLane0_encwfResponse]
  rcases legal_count_cases hk with rfl | rfl | rfl
  · simp [decwResponse_two_symbols, byte0_sextets, group24_byte0]
  · simp [decwResponse_three_symbols, byte0_sextets, byte1_sextets, group24_byte0, group24_byte1]
  · simp [decwResponse_four_symbols, byte0_sextets, byte1_sextets, byte2_sextets, group24_byte0, group24_byte1,
      group24_byte2]

/-! ### The obligations -/

/-- Settles O14: the response word is the count and the symbols side by side, a request of the row has it through its
low 24 bits, and `=` is no symbol. -/
theorem encwAnswersFourSymbols : Obligations.EncwAnswersFourSymbols := by
  refine ⟨?_, ?_, sym_ne_padChar, exec_of_responseOf (by decide), exec_of_responseOf (by decide),
    exec_of_responseOf (by decide)⟩
  · rintro b0 b1 b2 w s rfl
    have hresponse : responseOf (.encw b0 b1 b2) = some _ := congrArg some (encwResponse_eq_append b0 b1 b2)
    exact exec_of_responseOf hresponse s
  · intro r s hrow
    obtain ⟨hop, hfinal⟩ := (encwRow_iff r).mp hrow
    exact step_of_blockFunction (present_pending r s) (blockFunction_of_encw_row hop hfinal)

/-- Settles O16: each character is a symbol or chosen by the count between `=` and a symbol, and no symbol is `=`. -/
theorem paddingIsDecidedByTheCount : Obligations.PaddingIsDecidedByTheCount := by
  refine ⟨?_, encwfResponse 2 0x4D 0 0, encwf_answers (by decide) _ _ _, by decide⟩
  intro k b0 b1 b2 hk
  refine ⟨encwfResponse k b0 b1 b2, encwf_answers hk b0 b1 b2, ?_⟩
  rw [rspLane3_encwfResponse, rspLane2_encwfResponse, rspLane1_encwfResponse, rspLane0_encwfResponse]
  exact ⟨sym_ne_padChar _, sym_ne_padChar _, ite_padChar_sym_eq_padChar_iff _, ite_padChar_sym_eq_padChar_iff _⟩

/-- Settles O17: `ENCW` is the final group with count 3, the lanes a count keeps do not depend on it, and the decoder
gives the count and the real bytes. -/
theorem bytesBeyondTheCountAreNotMasked : Obligations.BytesBeyondTheCountAreNotMasked := by
  refine ⟨?_, exec_of_responseOf (by decide), exec_of_responseOf (by decide), exec_of_responseOf (by decide)⟩
  intro k b0 b1 b2 hk
  have hdecw := decwResponse_encwfResponse hk b0 b1 b2
  refine ⟨encwfResponse k b0 b1 b2, encwfResponse 3 b0 b1 b2, encwf_answers hk b0 b1 b2, encw_answers b0 b1 b2,
    ?_, ?_, ?_, ?_, decodeResponse k b0 (if k = 1 then 0 else b1) (if k = 3 then b2 else 0),
    hdecw ▸ decw_answers _ _ _ _, ?_, ?_, ?_, ?_⟩
  · rw [rspLane3_encwfResponse, rspLane3_encwfResponse]
  · rw [rspLane2_encwfResponse, rspLane2_encwfResponse]
  · intro hkept
    rw [rspLane1_encwfResponse, rspLane1_encwfResponse, if_neg hkept, if_neg (by decide)]
  · rintro rfl
    rfl
  · exact rspN_packResponse _ _
  · exact rspLane2_packResponse _ _ _ _ _
  · intro hreal
    exact (rspLane1_packResponse _ _ _ _ _).trans (if_neg hreal)
  · intro hreal
    exact (rspLane0_packResponse _ _ _ _ _).trans (if_pos hreal)

end Sys2Proof.Machine
end

section
/-! PROOFS. The statements of 42_word_decoder.md: the numbered tests of a group (R101), their order (R103), the bytes
not produced (R106), and `=` at the front (R107). The tests are read once as conditions on the values of the characters,
and each outcome of the decision table (R105) follows from that reading. -/

namespace Sys2Proof.Machine

/-! ### The numbered tests as conditions on values (R101, R102) -/

theorem isInvalid_iff (c : Character) : isInvalid c = true ↔ val c = 0xFF#8 :=
  beq_iff_eq

/-- A character with the sentinel as its value is not `=` (R75). -/
theorem ne_padChar_of_invalid {c : Character} (h : val c = 0xFF#8) : c ≠ padChar := by
  rintro rfl
  exact absurd (val_padChar.symm.trans h) (by decide)

theorem decwResponse_eq_ite (c0 c1 c2 c3 : Character) :
    decwResponse c0 c1 c2 c3 =
      if val c0 = 0xFF#8 ∨ val c1 = 0xFF#8 then failResponse
      else if c2 = padChar then decodeResponse 1 (byte0 (val c0) (val c1)) 0 0
      else if val c2 = 0xFF#8 then failResponse
      else if c3 = padChar then decodeResponse 2 (byte0 (val c0) (val c1)) (byte1 (val c1) (val c2)) 0
      else if val c3 = 0xFF#8 then failResponse
      else decodeResponse 3 (byte0 (val c0) (val c1)) (byte1 (val c1) (val c2)) (byte2 (val c2) (val c3)) := by
  simp only [decwResponse, Bool.or_eq_true, isInvalid_iff]

theorem failResponse_eq_zero : failResponse = 0#34 := by decide

/-- A decode response is its count, a zero lane and its three bytes side by side (R51). -/
theorem decodeResponse_eq_append (n : BitVec 2) (y0 y1 y2 : Byte) :
    decodeResponse n y0 y1 y2 = n ++ 0#8 ++ y0 ++ y1 ++ y2 :=
  packResponse_lanes _ _ _ _ _

/-- A request of the row of `DECW` is answered with the response of its four characters, whatever its ignored bits. -/
theorem blockFunction_of_decw_row {r : Request} (hop : reqOp r = 1) :
    blockFunction r = responseOf (.decw (reqByte3 r) (reqByte2 r) (reqByte1 r) (reqByte0 r)) :=
  congrArg responseOf (decode_of_decw_row hop)

/-! ### The count and the lanes of a decode response (R51) -/

section DecodeResponseFields

variable (n : BitVec 2) (y0 y1 y2 : Byte)

@[simp] theorem rspN_decodeResponse : rspN (decodeResponse n y0 y1 y2) = n := rspN_packResponse _ _

@[simp] theorem rspLane3_decodeResponse : rspLane3 (decodeResponse n y0 y1 y2) = 0 := rspLane3_packResponse _ _ _ _ _

@[simp] theorem rspLane2_decodeResponse : rspLane2 (decodeResponse n y0 y1 y2) = y0 := rspLane2_packResponse _ _ _ _ _

@[simp] theorem rspLane1_decodeResponse : rspLane1 (decodeResponse n y0 y1 y2) = y1 := rspLane1_packResponse _ _ _ _ _

@[simp] theorem rspLane0_decodeResponse : rspLane0 (decodeResponse n y0 y1 y2) = y2 := rspLane0_packResponse _ _ _ _ _

end DecodeResponseFields

theorem rspN_failResponse : rspN failResponse = 0 := rspN_decodeResponse _ _ _ _

/-! ### The outcomes of the decision table (R105) -/

section Outcomes

variable {c0 c1 c2 c3 : Character}

theorem decwResponse_of_invalid_front (h : val c0 = 0xFF#8 ∨ val c1 = 0xFF#8) :
    decwResponse c0 c1 c2 c3 = failResponse := by
  rw [decwResponse_eq_ite, if_pos h]

/-- An invalid third character fails the group, whatever stands before it. -/
theorem decwResponse_of_invalid_third (h : val c2 = 0xFF#8) : decwResponse c0 c1 c2 c3 = failResponse := by
  rw [decwResponse_eq_ite, if_neg (ne_padChar_of_invalid h), if_pos h, ite_self]

variable (h0 : val c0 ≠ 0xFF#8) (h1 : val c1 ≠ 0xFF#8)
include h0 h1

/-- After `=` in the third place the fourth character is not looked at. -/
theorem decwResponse_of_pad_third (hpad : c2 = padChar) :
    decwResponse c0 c1 c2 c3 = decodeResponse 1 (byte0 (val c0) (val c1)) 0 0 := by
  rw [decwResponse_eq_ite, if_neg (not_or.mpr ⟨h0, h1⟩), if_pos hpad]

variable (hpad : c2 ≠ padChar) (h2 : val c2 ≠ 0xFF#8)
include hpad h2

theorem decwResponse_of_pad_fourth (hpad3 : c3 = padChar) :
    decwResponse c0 c1 c2 c3 = decodeResponse 2 (byte0 (val c0) (val c1)) (byte1 (val c1) (val c2)) 0 := by
  rw [decwResponse_eq_ite, if_neg (not_or.mpr ⟨h0, h1⟩), if_neg hpad, if_neg h2, if_pos hpad3]

theorem decwResponse_of_invalid_fourth (h3 : val c3 = 0xFF#8) : decwResponse c0 c1 c2 c3 = failResponse := by
  rw [decwResponse_eq_ite, if_neg (not_or.mpr ⟨h0, h1⟩), if_neg hpad, if_neg h2, if_neg (ne_padChar_of_invalid h3),
    if_pos h3]

theorem decwResponse_of_valid_fourth (hpad3 : c3 ≠ padChar) (h3 : val c3 ≠ 0xFF#8) :
    decwResponse c0 c1 c2 c3 =
      decodeResponse 3 (byte0 (val c0) (val c1)) (byte1 (val c1) (val c2)) (byte2 (val c2) (val c3)) := by
  rw [decwResponse_eq_ite, if_neg (not_or.mpr ⟨h0, h1⟩), if_neg hpad, if_neg h2, if_neg hpad3, if_neg h3]

end Outcomes

/-- Every group fails, or has one byte, two or three, and zeros for the others (R106). -/
theorem decwResponse_shape (c0 c1 c2 c3 : Character) :
    decwResponse c0 c1 c2 c3 = decodeResponse 0 0 0 0 ∨
    (∃ y0, decwResponse c0 c1 c2 c3 = decodeResponse 1 y0 0 0) ∨
    (∃ y0 y1, decwResponse c0 c1 c2 c3 = decodeResponse 2 y0 y1 0) ∨
    ∃ y0 y1 y2, decwResponse c0 c1 c2 c3 = decodeResponse 3 y0 y1 y2 := by
  rw [decwResponse_eq_ite]
  split_ifs
  · exact .inl rfl
  · exact .inr (.inl ⟨_, rfl⟩)
  · exact .inl rfl
  · exact .inr (.inr (.inl ⟨_, _, rfl⟩))
  · exact .inl rfl
  · exact .inr (.inr (.inr ⟨_, _, _, rfl⟩))

/-- The first two characters of a group count by their values only (R107). -/
theorem exec_decw_eq_of_val_eq {c0 c0' c1 c1' : Character} (h0 : val c0 = val c0') (h1 : val c1 = val c1')
    (c2 c3 : Character) (s : State) : exec (.decw c0 c1 c2 c3) s = exec (.decw c0' c1' c2 c3) s := by
  have hresponse : decwResponse c0 c1 c2 c3 = decwResponse c0' c1' c2 c3 := by
    rw [decwResponse_eq_ite, decwResponse_eq_ite, h0, h1]
  rw [decw_answers, decw_answers, hresponse]

/-! ### The obligations -/

/-- Settles O21: the response is the chain of tests with its words written out as lanes, and a request of the row has
the response of its characters. -/
theorem decwFollowsTheNumberedTests : Obligations.DecwFollowsTheNumberedTests := by
  refine ⟨?_, ?_, exec_of_responseOf (by decide)⟩
  · rintro c0 c1 c2 c3 v0 v1 v2 v3 y0 y1 y2 s rfl rfl rfl rfl rfl rfl rfl
    rw [decw_answers, decwResponse_eq_ite]
    simp only [failResponse_eq_zero, decodeResponse_eq_append]
    rfl
  · intro r s t hrow hexec
    obtain ⟨p, hp, rfl⟩ := exec_next_cases hexec
    exact step_of_blockFunction (present_pending r s) ((blockFunction_of_decw_row ((decwRow_iff r).mp hrow)).trans hp)

/-- Settles O23: each clause is an outcome of the decision table, and an outcome that `=` at position 2 decides does not
look at position 3. -/
theorem earlierTestOfAGroupWins : Obligations.EarlierTestOfAGroupWins := by
  intro c0 c1 c2 c3
  refine ⟨decwResponse c0 c1 c2 c3, decw_answers c0 c1 c2 c3, ?_, ?_, ?_, ?_⟩
  · intro hfront
    rw [decwResponse_of_invalid_front hfront, rspN_failResponse]
  · intro h0 h1 hpad
    rw [decwResponse_of_pad_third h0 h1 hpad]
    refine ⟨rspN_decodeResponse _ _ _ _, fun c3' => ?_⟩
    rw [← decwResponse_of_pad_third (c3 := c3') h0 h1 hpad]
    exact decw_answers c0 c1 c2 c3'
  · intro h2
    rw [decwResponse_of_invalid_third h2, rspN_failResponse]
  · intro h0 h1 hpad h2
    refine ⟨?_, ?_, ?_⟩
    · intro hpad3
      rw [decwResponse_of_pad_fourth h0 h1 hpad h2 hpad3, rspN_decodeResponse]
    · intro h3
      rw [decwResponse_of_invalid_fourth h0 h1 hpad h2 h3, rspN_failResponse]
    · intro hpad3 h3
      rw [decwResponse_of_valid_fourth h0 h1 hpad h2 hpad3 h3, rspN_decodeResponse]

/-- Settles O24: in each of the four shapes of a response the count is as written and the lanes beyond it are zero. -/
theorem unproducedBytesReadZero : Obligations.UnproducedBytesReadZero := by
  intro c0 c1 c2 c3
  refine ⟨decwResponse c0 c1 c2 c3, decw_answers c0 c1 c2 c3, ?_⟩
  obtain h | ⟨y0, h⟩ | ⟨y0, y1, h⟩ | ⟨y0, y1, y2, h⟩ := decwResponse_shape c0 c1 c2 c3
  · simp [h]
  · simp [h]
  · simp [h]
  · simp [h]

/-- Settles O25: `=` and `A` have the value 0, and the first two characters count by their values only. -/
theorem paddingAtTheFrontBehavesAsA : Obligations.PaddingAtTheFrontBehavesAsA := by
  have hval : val 0x3D = val 0x41 := by decide
  refine ⟨fun c0 c1 c2 c3 s => ⟨?_, ?_⟩, exec_of_responseOf (by decide), exec_of_responseOf (by decide),
    exec_of_responseOf (by decide), exec_of_responseOf (by decide), exec_of_responseOf (by decide),
    exec_of_responseOf (by decide)⟩
  · exact exec_decw_eq_of_val_eq hval rfl c2 c3 s
  · exact exec_decw_eq_of_val_eq rfl hval c2 c3 s

end Sys2Proof.Machine
end

section
/-! PROOFS. The statements of 43_host_sequences.md: the whitespace filter (R121, R122), the Encoder's pass (R124 to
R127) and the Decoder's pass (R130 to R133). Each pass is one equation per group of its input; what it does to a whole
buffer or text follows by induction over the groups. -/

namespace Sys2Proof

/-- An operation reads back from its request word (30_encoding.md R52, R61). -/
theorem decode_encode (i : Instr) : decode (encode i) = i := by
  cases i with
  | encw b0 b1 b2 =>
    rw [encode, decode_of_encw_row (reqOp_packRequest ..) (reqFinal_packRequest ..), reqByte2_packRequest,
      reqByte1_packRequest, reqByte0_packRequest]
  | encwf k b0 b1 b2 =>
    rw [encode, decode_of_encwf_row (reqOp_packRequest ..) (reqFinal_packRequest ..), reqNreal_packRequest,
      reqByte2_packRequest, reqByte1_packRequest, reqByte0_packRequest]
  | decw c0 c1 c2 c3 =>
    rw [encode, decode_of_decw_row (reqOp_packRequest ..), reqByte3_packRequest, reqByte2_packRequest,
      reqByte1_packRequest, reqByte0_packRequest]

namespace Machine

/-- The block's answer to an operation's request word is the operation's response (R53). -/
theorem blockFunction_encode (i : Instr) : blockFunction (encode i) = responseOf i := by
  rw [blockFunction, decode_encode]

/-! ### The whitespace filter (R121, R122) -/

theorem isWhitespace_eq_false_iff (c : Character) :
    isWhitespace c = false ↔ c ≠ 0x20#8 ∧ c ≠ 0x09#8 ∧ c ≠ 0x0D#8 ∧ c ≠ 0x0A#8 := by
  simp [isWhitespace, and_assoc]

theorem mem_filterWhitespace {c : Character} {text : List Character} :
    c ∈ filterWhitespace text ↔ c ∈ text ∧ isWhitespace c = false := by
  rw [filterWhitespace, List.mem_filter, Bool.not_eq_true']

theorem count_filterWhitespace {c : Character} (h : isWhitespace c = false) (text : List Character) :
    (filterWhitespace text).count c = text.count c :=
  List.count_filter (by rw [h]; rfl)

theorem filterWhitespace_append (text text' : List Character) :
    filterWhitespace (text ++ text') = filterWhitespace text ++ filterWhitespace text' :=
  List.filter_append ..

/-- A whole buffer is decoded through its filtered text (R128). -/
theorem hostDecode_length (text : List Character) (s : State) :
    hostDecode text text.length s = decodeCompacted (filterWhitespace text) s := by
  rw [hostDecode, List.take_length]

/-! ### The requests of the Encoder, group by group (R124, R125) -/

/-- The first full group is the first request, and the rest of the buffer gives the others. -/
theorem fullGroupRequests_cons (b0 b1 b2 : Byte) (rest : List Byte) :
    fullGroupRequests (b0 :: b1 :: b2 :: rest) = encode (.encw b0 b1 b2) :: fullGroupRequests rest := by
  have hcount : (b0 :: b1 :: b2 :: rest).length / 3 = rest.length / 3 + 1 :=
    Nat.add_div_right rest.length (show 0 < 3 by decide)
  rw [fullGroupRequests, hcount, List.range_succ_eq_map, List.map_cons, List.map_map]
  rfl

/-- A full group in front moves the short last group by three bytes and leaves it as it is. -/
theorem shortGroupRequest_cons (b0 b1 b2 : Byte) (rest : List Byte) :
    shortGroupRequest (b0 :: b1 :: b2 :: rest) = shortGroupRequest rest := by
  have hmod : (b0 :: b1 :: b2 :: rest).length % 3 = rest.length % 3 := Nat.add_mod_right rest.length 3
  have hfull : (b0 :: b1 :: b2 :: rest).length - rest.length % 3 = rest.length - rest.length % 3 + 3 := by
    simp only [List.length_cons]; omega
  simp only [shortGroupRequest, hmod, hfull]
  rfl

theorem length_fullGroupRequests (bytes : List Byte) : (fullGroupRequests bytes).length = bytes.length / 3 := by
  rw [fullGroupRequests, List.length_map, List.length_range]

theorem length_shortGroupRequest (bytes : List Byte) :
    (shortGroupRequest bytes).length = if bytes.length % 3 = 0 then 0 else 1 := by
  have hmod : bytes.length % 3 = 0 ∨ bytes.length % 3 = 1 ∨ bytes.length % 3 = 2 := by omega
  rcases hmod with h | h | h
  · simp [shortGroupRequest, h]
  · simp [shortGroupRequest, h]
  · simp [shortGroupRequest, h]

/-- One request for each group begun: `ceil(L/3)` of them (R126). -/
theorem length_encoderRequests (bytes : List Byte) :
    (fullGroupRequests bytes ++ shortGroupRequest bytes).length = (bytes.length + 2) / 3 := by
  rw [List.length_append, length_fullGroupRequests, length_shortGroupRequest]
  split_ifs <;> omega

/-! ### The Encoder's pass (R126) -/

/-- An operation with a response has its four characters appended to the text. -/
theorem issueEncode_of_responseOf {i : Instr} {p : Response} (h : responseOf i = some p) (s : State)
    (text : List Character) :
    issueEncode i s text =
      .next ({ s with issued := s.issued ++ [encode i], responses := s.responses ++ [p] },
        text ++ responseCharacters p) := by
  rw [issueEncode, issue_of_responseOf (decode_encode i) h, andThen_next]

/-- One operation is a pass of one request. -/
theorem issueEncode_answers {i : Instr} {p : Response} (h : responseOf i = some p) (s : State)
    (text : List Character) :
    ∃ ps : List Response,
      issueEncode i s text =
        .next ({ s with issued := s.issued ++ [encode i], responses := s.responses ++ ps },
          text ++ ps.flatMap responseCharacters) ∧
      [encode i].map blockFunction = ps.map some := by
  refine ⟨[p], ?_, ?_⟩
  · rw [issueEncode_of_responseOf h, List.flatMap_singleton]
  · rw [List.map_singleton, blockFunction_encode, h, List.map_singleton]

/-- A full group in front is answered first, and the pass goes on behind it. -/
theorem encodeGroups_cons (b0 b1 b2 : Byte) (rest : List Byte) (s : State) (text : List Character) :
    encodeGroups (b0 :: b1 :: b2 :: rest) s text =
      encodeGroups rest { s with
        issued := s.issued ++ [encode (.encw b0 b1 b2)]
        responses := s.responses ++ [encwResponse b0 b1 b2] } (text ++ responseCharacters (encwResponse b0 b1 b2)) := by
  rw [encodeGroups, issueEncode_of_responseOf rfl, andThen_next]

/-- The pass issues the requests of R124 and R125 in order, each is answered by the block's function, and the characters
of the responses are appended in request order. -/
theorem encodeGroups_answers (bytes : List Byte) (s : State) (text : List Character) :
    ∃ ps : List Response,
      encodeGroups bytes s text = .next ({ s with
          issued := s.issued ++ (fullGroupRequests bytes ++ shortGroupRequest bytes)
          responses := s.responses ++ ps }, text ++ ps.flatMap responseCharacters) ∧
      (fullGroupRequests bytes ++ shortGroupRequest bytes).map blockFunction = ps.map some := by
  induction bytes, s, text using encodeGroups.induct with
  | case1 s text => exact ⟨[], by simp [encodeGroups, fullGroupRequests, shortGroupRequest]⟩
  | case2 b0 s text =>
    have hrequests : fullGroupRequests [b0] ++ shortGroupRequest [b0] = [encode (.encwf 1 b0 0 0)] := by
      simp [fullGroupRequests, shortGroupRequest, byteAt]
    rw [hrequests, encodeGroups]
    exact issueEncode_answers rfl s text
  | case3 b0 b1 s text =>
    have hrequests : fullGroupRequests [b0, b1] ++ shortGroupRequest [b0, b1] = [encode (.encwf 2 b0 b1 0)] := by
      simp [fullGroupRequests, shortGroupRequest, byteAt]
    rw [hrequests, encodeGroups]
    exact issueEncode_answers rfl s text
  | case4 b0 b1 b2 rest s text ih =>
    obtain ⟨ps, hpass, hanswers⟩ := ih _ _
    refine ⟨encwResponse b0 b1 b2 :: ps, ?_, ?_⟩
    · rw [encodeGroups_cons, hpass]
      simp [fullGroupRequests_cons, shortGroupRequest_cons]
    · rw [fullGroupRequests_cons, shortGroupRequest_cons, List.cons_append, List.map_cons, hanswers,
        blockFunction_encode, List.map_cons]
      rfl

/-- Four characters for each response. -/
theorem length_flatMap_responseCharacters (ps : List Response) :
    (ps.flatMap responseCharacters).length = 4 * ps.length := by
  simp [List.length_flatMap, responseCharacters, Nat.mul_comm]

/-! ### The Decoder's pass, group by group (R130 to R133) -/

/-- The state once the groups have been issued and answered, in order. -/
def afterGroups (gs : List TextGroup) (s : State) : State :=
  { s with
    issued := s.issued ++ gs.map fun h => encode h.instr
    responses := s.responses ++ gs.map TextGroup.response }

@[simp] theorem afterGroups_nil (s : State) : afterGroups [] s = s := by
  simp [afterGroups]

theorem afterGroups_afterGroups (gs gs' : List TextGroup) (s : State) :
    afterGroups gs' (afterGroups gs s) = afterGroups (gs ++ gs') s := by
  simp [afterGroups]

/-- The host's `DECW` of a group is answered with the group's response, in the state after it. -/
theorem issue_instr (g : TextGroup) (s : State) : issue g.instr s = .next (afterGroups [g] s, g.response) :=
  issue_of_responseOf (decode_encode g.instr) rfl s

theorem charactersOf_cons (g : TextGroup) (gs : List TextGroup) :
    charactersOf (g :: gs) = g.c0 :: g.c1 :: g.c2 :: g.c3 :: charactersOf gs := rfl

theorem length_charactersOf (gs : List TextGroup) : (charactersOf gs).length = 4 * gs.length := by
  simp [charactersOf, List.length_flatMap, Nat.mul_comm]

theorem charactersOf_eq_nil_iff (gs : List TextGroup) : charactersOf gs = [] ↔ gs = [] := by
  rw [← List.length_eq_zero_iff, length_charactersOf, ← List.length_eq_zero_iff]; omega

/-- A text of whole groups passes the length check (R129). -/
theorem decodeCompacted_charactersOf (gs : List TextGroup) (s : State) :
    decodeCompacted (charactersOf gs) s = decodeGroups (charactersOf gs) s [] := by
  rw [decodeCompacted, length_charactersOf, if_pos (Nat.mul_mod_right ..)]

theorem rspFailed_iff (p : Response) : rspFailed p = true ↔ rspN p = 0 :=
  beq_iff_eq

/-- At the end of the text the bytes so far are the result (R133). -/
theorem decodeGroups_nil (s : State) (bytes : List Byte) :
    decodeGroups (charactersOf []) s bytes = .next (s, .decoded bytes bytes.length) := rfl

/-- What the pass does with its next group: stop at a failed or a short one, or go on with its bytes. -/
theorem decodeGroups_cons (g : TextGroup) (gs : List TextGroup) (s : State) (bytes : List Byte) :
    decodeGroups (charactersOf (g :: gs)) s bytes =
      if rspN g.response = 0 then .next (afterGroups [g] s, .failed .invalidCharacter)
      else if rspN g.response ≠ 3 ∧ gs ≠ [] then .next (afterGroups [g] s, .failed .truncatedGroup)
      else decodeGroups (charactersOf gs) (afterGroups [g] s) (bytes ++ responseBytes g.response) := by
  rw [charactersOf_cons, decodeGroups, ← TextGroup.instr, issue_instr, andThen_next]
  simp only [rspFailed_iff, Bool.and_eq_true, bne_iff_ne, Bool.not_eq_true', List.isEmpty_eq_false_iff, ne_eq,
    charactersOf_eq_nil_iff]

/-- A group of 3 bytes never stops the pass. -/
theorem decodeGroups_cons_of_full {g : TextGroup} (h : rspN g.response = 3) (gs : List TextGroup) (s : State)
    (bytes : List Byte) :
    decodeGroups (charactersOf (g :: gs)) s bytes =
      decodeGroups (charactersOf gs) (afterGroups [g] s) (bytes ++ responseBytes g.response) := by
  rw [decodeGroups_cons, if_neg (by rw [h]; decide), if_neg (fun hshort => hshort.1 h)]

/-- Groups of 3 bytes are issued, answered and joined, and the pass goes on with the groups after them. -/
theorem decodeGroups_append_of_full {before : List TextGroup} (h : ∀ g ∈ before, rspN g.response = 3)
    (gs : List TextGroup) (s : State) (bytes : List Byte) :
    decodeGroups (charactersOf (before ++ gs)) s bytes =
      decodeGroups (charactersOf gs) (afterGroups before s)
        (bytes ++ before.flatMap fun g => responseBytes g.response) := by
  induction before generalizing s bytes with
  | nil => simp
  | cons g before ih =>
    obtain ⟨hg, hbefore⟩ := List.forall_mem_cons.mp h
    rw [List.cons_append, decodeGroups_cons_of_full hg, ih hbefore, afterGroups_afterGroups, List.append_assoc,
      List.flatMap_cons, List.singleton_append]

/-- The pass over a text of groups of 3 bytes, up to the first other group. -/
theorem decodeCompacted_append_of_full {before : List TextGroup} (h : ∀ g ∈ before, rspN g.response = 3)
    (gs : List TextGroup) (s : State) :
    decodeCompacted (charactersOf (before ++ gs)) s =
      decodeGroups (charactersOf gs) (afterGroups before s) (before.flatMap fun g => responseBytes g.response) := by
  rw [decodeCompacted_charactersOf, decodeGroups_append_of_full h, List.nil_append]

/-- A response gives as many bytes as its count says (R133). -/
theorem length_responseBytes (p : Response) : (responseBytes p).length = (rspN p).toNat := by
  have hcount : (rspN p).toNat < 4 := (rspN p).isLt
  rw [responseBytes, List.length_take]
  exact Nat.min_eq_left (Nat.le_of_lt_succ hcount)

theorem length_flatMap_responseBytes_of_full {before : List TextGroup} (h : ∀ g ∈ before, rspN g.response = 3) :
    (before.flatMap fun g => responseBytes g.response).length = 3 * before.length := by
  induction before with
  | nil => rfl
  | cons g before ih =>
    obtain ⟨hg, hbefore⟩ := List.forall_mem_cons.mp h
    rw [List.flatMap_cons, List.length_append, ih hbefore, length_responseBytes, hg, List.length_cons, Nat.mul_add,
      Nat.add_comm]
    rfl

/-! ### The obligations -/

/-- Settles O41: the filter keeps exactly the characters that are none of the four, and `decode` sees a text only
through it. -/
theorem filterRemovesExactlyWhitespace : Obligations.FilterRemovesExactlyWhitespace := by
  intro text text'
  refine ⟨?_, List.filter_sublist, ?_, filterWhitespace_append text text', ?_⟩
  · intro c hc
    exact (isWhitespace_eq_false_iff c).mp (mem_filterWhitespace.mp hc).2
  · intro c hc
    exact count_filterWhitespace ((isWhitespace_eq_false_iff c).mpr hc) text
  · intro heq s
    rw [hostDecode_length, hostDecode_length, heq]

/-- Settles O42: the Encoder's pass from the empty text; the length is four times the number of requests. -/
theorem hostEncoderIssuesTheGroupsInOrder : Obligations.HostEncoderIssuesTheGroupsInOrder := by
  intro bytes s
  obtain ⟨ps, hpass, hanswers⟩ := encodeGroups_answers bytes s []
  have hcount : ps.length = (bytes.length + 2) / 3 := by
    rw [← length_encoderRequests, ← List.length_map some, ← hanswers, List.length_map]
  refine ⟨ps, ps.flatMap responseCharacters, ?_, hanswers, rfl, ?_⟩
  · rw [hostEncode, hpass, andThen_next, List.nil_append, List.append_assoc]
    rfl
  · rw [length_flatMap_responseCharacters, hcount]

/-- Settles O44: the pass reaches the short group, which is neither failed nor full and has groups after it. -/
theorem shortGroupBeforeTheLastIsTruncated : Obligations.ShortGroupBeforeTheLastIsTruncated := by
  intro before after g s hbefore hshort hafter
  have hnonzero : rspN g.response ≠ 0 := by rcases hshort with h | h <;> simp [h]
  have hnotfull : rspN g.response ≠ 3 := by rcases hshort with h | h <;> simp [h]
  rw [decodeCompacted_append_of_full hbefore, decodeGroups_cons, if_neg hnonzero, if_pos ⟨hnotfull, hafter⟩,
    afterGroups_afterGroups]
  rfl

/-- Settles O45: the pass reaches the failed group and looks at nothing after it. -/
theorem failedGroupIsAnInvalidCharacter : Obligations.FailedGroupIsAnInvalidCharacter := by
  intro before after g s hbefore hfailed
  rw [decodeCompacted_append_of_full hbefore, decodeGroups_cons, if_pos hfailed, afterGroups_afterGroups]
  rfl

/-- Settles O46: the pass reaches the last group, which stops it at no count but 0, and ends with its bytes joined. -/
theorem hostDecoderConcatenatesTheBytes : Obligations.HostDecoderConcatenatesTheBytes := by
  intro before g s hbefore hnonzero
  have hbytes : ((before ++ [g]).flatMap fun h => responseBytes h.response) =
      (before.flatMap fun h => responseBytes h.response) ++ responseBytes g.response := by
    rw [List.flatMap_append, List.flatMap_singleton]
  refine ⟨(before ++ [g]).flatMap fun h => responseBytes h.response, ?_, by simp only [responseBytes], ?_⟩
  · rw [decodeCompacted_append_of_full hbefore, decodeGroups_cons, if_neg hnonzero,
      if_neg (fun hshort => hshort.2 rfl), decodeGroups_nil, afterGroups_afterGroups, hbytes]
    rfl
  · rw [hbytes, List.length_append, length_flatMap_responseBytes_of_full hbefore, length_responseBytes]

end Machine

end Sys2Proof
end

section
/-! PROOFS. The statement of 60_exceptions.md: the failure response is given exactly under the three conditions of R151,
and no encode operation gives its count (R153). -/

namespace Sys2Proof.Machine

/-! ### The count of an encode response (R51, R83, R153) -/

theorem rspN_encwfResponse (k : BitVec 2) (b0 b1 b2 : Byte) : rspN (encwfResponse k b0 b1 b2) = k :=
  rspN_packResponse _ _

theorem rspN_encwResponse (b0 b1 b2 : Byte) : rspN (encwResponse b0 b1 b2) = 3 :=
  rspN_packResponse _ _

/-! ### When a group fails, and what it then records (R151, R152) -/

/-- Position 2 requires a symbol unless it holds `=`, and position 3 unless one of the two holds `=` (R151). -/
theorem rspN_decwResponse_eq_zero_iff (c0 c1 c2 c3 : Character) :
    rspN (decwResponse c0 c1 c2 c3) = 0 ↔
      (val c0 = 0xFF#8 ∨ val c1 = 0xFF#8) ∨ (c2 ≠ padChar ∧ val c2 = 0xFF#8) ∨
        (c2 ≠ padChar ∧ c3 ≠ padChar ∧ val c3 = 0xFF#8) := by
  rw [decwResponse_eq_ite]
  split_ifs with hfront hpad h2 hpad3 h3
  · simp [rspN_failResponse, hfront]
  · simp [hfront, hpad]
  · simp [rspN_failResponse, hpad, h2]
  · simp [hfront, h2, hpad3]
  · simp [rspN_failResponse, hpad, hpad3, h3]
  · simp [hfront, h2, h3]

/-- Of the four shapes of a decode response only the failure response has the count 0. -/
theorem decwResponse_eq_failResponse_of_rspN {c0 c1 c2 c3 : Character} (h : rspN (decwResponse c0 c1 c2 c3) = 0) :
    decwResponse c0 c1 c2 c3 = failResponse := by
  obtain hshape | ⟨y0, hshape⟩ | ⟨y0, y1, hshape⟩ | ⟨y0, y1, y2, hshape⟩ := decwResponse_shape c0 c1 c2 c3
  · exact hshape
  · simp [hshape] at h
  · simp [hshape] at h
  · simp [hshape] at h

theorem rspQ_failResponse : rspQ failResponse = 0 := rspQ_packResponse _ _

/-! ### The obligation -/

/-- Settles O28: the count of an encode operation is 3 or its legal real-byte count, and a `DECW` has the count 0
exactly under R151's conditions, and then with the failure response. -/
theorem onlyInvalidCharactersFail : Obligations.OnlyInvalidCharactersFail := by
  intro i hwf
  cases i with
  | encw b0 b1 b2 =>
    have hn : rspN (encwResponse b0 b1 b2) ≠ 0 := by rw [rspN_encwResponse]; decide
    exact ⟨encwResponse b0 b1 b2, encw_answers b0 b1 b2, iff_of_false hn (by simp), fun h => absurd h hn⟩
  | encwf k b0 b1 b2 =>
    have hk : k ≠ 0 := bne_iff_ne.mp hwf
    have hn : rspN (encwfResponse k b0 b1 b2) ≠ 0 := by rwa [rspN_encwfResponse]
    exact ⟨encwfResponse k b0 b1 b2, encwf_answers hk b0 b1 b2, iff_of_false hn (by simp), fun h => absurd h hn⟩
  | decw c0 c1 c2 c3 =>
    refine ⟨decwResponse c0 c1 c2 c3, decw_answers c0 c1 c2 c3, ⟨?_, ?_⟩, ?_⟩
    · intro h
      exact ⟨c0, c1, c2, c3, rfl, (rspN_decwResponse_eq_zero_iff c0 c1 c2 c3).mp h⟩
    · rintro ⟨_, _, _, _, heq, h⟩
      cases heq
      exact (rspN_decwResponse_eq_zero_iff c0 c1 c2 c3).mpr h
    · intro h
      rw [decwResponse_eq_failResponse_of_rspN h, rspQ_failResponse]

end Sys2Proof.Machine
end

section
/-! PROOFS. The statements of 30_encoding.md about request words that are written out: an operation reads back from its
word (R52), what encoding a decoded word clears (R57, R61), and the pseudo-operations (R62). -/

namespace Sys2Proof

/-! ### Numbers as request words (R60) -/

theorem decodeNumber_toNat (r : Request) : decodeNumber r.toNat = .ok (decode r) := by
  rw [decodeNumber, if_pos r.isLt, BitVec.ofNat_toNat, BitVec.setWidth_eq]

/-- A request word fits the 40 bits of a table word, so the table decoder reads its operation. -/
theorem decodeTableWord_toNat (r : Request) : decodeTableWord 40 r.toNat = some (decode r) := by
  have hlt : r.toNat < 2 ^ 40 := Nat.lt_trans r.isLt (by decide)
  rw [decodeTableWord, Nat.mod_eq_of_lt hlt, decodeNumber_toNat]

/-! ### Encoding what a word decodes to, row by row (R57, R61) -/

theorem encode_decode_of_encw_row {r : Request} (hop : reqOp r = 0) (hfinal : reqFinal r = 0) :
    encode (decode r) = r &&& 0x000FFFFFF#36 := by
  rw [decode_of_encw_row hop hfinal, encode,
    show 0x000FFFFFF#36 = packRequest 0 0 0 0 (.allOnes 8) (.allOnes 8) (.allOnes 8) by decide, and_packRequest]
  simp only [BitVec.and_allOnes, BitVec.ofNat_eq_ofNat, BitVec.and_zero]

theorem encode_decode_of_encwf_row {r : Request} (hop : reqOp r = 0) (hfinal : reqFinal r = 1) :
    encode (decode r) = r &&& 0x700FFFFFF#36 := by
  rw [decode_of_encwf_row hop hfinal, encode,
    show 0x700FFFFFF#36 = packRequest 0 1 (.allOnes 2) 0 (.allOnes 8) (.allOnes 8) (.allOnes 8) by decide,
    and_packRequest, hfinal]
  simp only [BitVec.and_allOnes, BitVec.ofNat_eq_ofNat, BitVec.and_zero, BitVec.and_self]

theorem encode_decode_of_decw_row {r : Request} (hop : reqOp r = 1) :
    encode (decode r) = r &&& 0x8FFFFFFFF#36 := by
  rw [decode_of_decw_row hop, encode,
    show 0x8FFFFFFFF#36 = packRequest 1 0 0 (.allOnes 8) (.allOnes 8) (.allOnes 8) (.allOnes 8) by decide,
    and_packRequest, hop]
  simp only [BitVec.and_allOnes, BitVec.ofNat_eq_ofNat, BitVec.and_zero, BitVec.and_self]

/-! ### Words put together from shifted bytes (R62) -/

/-- Joining two words joins each field by itself. -/
theorem packRequest_or (op op' final final' : BitVec 1) (nreal nreal' : BitVec 2)
    (d3 d3' d2 d2' d1 d1' d0 d0' : Byte) :
    packRequest op final nreal d3 d2 d1 d0 ||| packRequest op' final' nreal' d3' d2' d1' d0' =
      packRequest (op ||| op') (final ||| final') (nreal ||| nreal') (d3 ||| d3') (d2 ||| d2') (d1 ||| d1')
        (d0 ||| d0') := by
  change op ++ final ++ nreal ++ d3 ++ d2 ++ d1 ++ d0 ||| op' ++ final' ++ nreal' ++ d3' ++ d2' ++ d1' ++ d0' = _
  iterate 6 rw [BitVec.or_append]
  rfl

theorem setWidth_shiftLeft_16 (b : Byte) : b.setWidth 36 <<< 16 = packRequest 0 0 0 0 b 0 0 := by
  apply BitVec.eq_of_toNat_eq
  have hb : b.toNat < 256 := b.isLt
  change _ = (0#12 ++ b ++ 0#8 ++ 0#8).toNat
  simp only [BitVec.toNat_append, BitVec.toNat_shiftLeft]
  simp [Nat.shiftLeft_eq]
  omega

theorem setWidth_shiftLeft_8 (b : Byte) : b.setWidth 36 <<< 8 = packRequest 0 0 0 0 0 b 0 := by
  apply BitVec.eq_of_toNat_eq
  have hb : b.toNat < 256 := b.isLt
  change _ = (0#20 ++ b ++ 0#8).toNat
  simp only [BitVec.toNat_append, BitVec.toNat_shiftLeft]
  simp [Nat.shiftLeft_eq]
  omega

namespace Machine

/-! ### The obligations -/

/-- Settles O2: every field an operation has reads back from its word, and the word is one of 36 bits. -/
theorem encodedOperationDecodesToItself : Obligations.EncodedOperationDecodesToItself := by
  intro i
  exact ⟨decode_encode i, by rw [decodeTableWord_toNat, decode_encode]⟩

/-- Settles O3: the operation of each row keeps the fields it uses, and the encoder writes zeros into the others. -/
theorem reencodedWordHasIgnoredFieldsZero : Obligations.ReencodedWordHasIgnoredFieldsZero := by
  intro r
  simp only [encwRow_iff, encwfRow_iff]
  split_ifs with hencw hencwf
  · obtain ⟨hop, hfinal⟩ := hencw
    exact encode_decode_of_encw_row hop hfinal
  · obtain ⟨hop, hfinal⟩ := hencwf
    exact encode_decode_of_encwf_row hop hfinal
  · have hop : reqOp r = 1 := ((row_cases r).resolve_left hencw).resolve_left hencwf
    exact encode_decode_of_decw_row hop

/-- Settles O5: each word is evaluated. -/
theorem specWordsDecodeToTheirOperations : Obligations.SpecWordsDecodeToTheirOperations := by
  unfold Obligations.SpecWordsDecodeToTheirOperations
  decide

/-- Settles O7: the spec's words are packed field by field. -/
theorem pseudoOperationsExpand : Obligations.PseudoOperationsExpand := by
  intro b0 b1
  refine ⟨rfl, ?_, rfl, ?_⟩
  · rw [setWidth_shiftLeft_16, show 0x500000000#36 = packRequest 0 1 1 0 0 0 0 by decide, packRequest_or]
    simp [pseudoEncw1, encode]
  · rw [setWidth_shiftLeft_16, setWidth_shiftLeft_8, show 0x600000000#36 = packRequest 0 1 2 0 0 0 0 by decide,
      packRequest_or, packRequest_or]
    simp [pseudoEncw2, encode]

end Machine

end Sys2Proof
end

section
/-! PROOFS. The statements about the step, its runs and its two invariants (00_scope.md R8; 10_state.md R21, R24;
60_exceptions.md R150, R162; 70_reset_and_hazards.md R170 to R174, R181, R182). A presented request has a response or is
the reserved one; each statement follows from what the step does in the two cases. -/

namespace Sys2Proof.Machine

/-! ### Answered or reserved (R58, R150, R162) -/

/-- The requests without a response are those with `req[35:32]` = 4 (R58). -/
theorem blockFunction_eq_none_iff (r : Request) : blockFunction r = none ↔ r.extractLsb' 32 4 = 4#4 := by
  rw [blockFunction, responseOf_eq_none_iff, not_wellFormed_decode_iff]

/-- The top four bits of a request word, masked in place. -/
theorem reservedMask_iff (r : Request) : r &&& 0xF00000000#36 = 0x400000000#36 ↔ r.extractLsb' 32 4 = 4#4 := by
  rw [reservedBits_iff, show 0xF00000000#36 = packRequest (.allOnes 1) (.allOnes 1) (.allOnes 2) 0 0 0 0 by decide,
    show 0x400000000#36 = packRequest 0 1 0 0 0 0 0 by decide, and_packRequest, packRequest_inj]
  simp only [BitVec.and_allOnes, BitVec.ofNat_eq_ofNat, BitVec.and_zero, and_true]

theorem isReserved_iff (r : Request) : isReserved r = true ↔ blockFunction r = none := by
  rw [blockFunction_eq_none_iff, reservedBits_iff]
  simp [isReserved, and_assoc]

/-- A request that is not reserved has a response. -/
theorem exists_response_of_not_reserved {r : Request} (h : isReserved r = false) : ∃ p, blockFunction r = some p := by
  rw [← Option.ne_none_iff_exists', ne_eq, ← isReserved_iff, h]
  decide

theorem step_of_no_pending {s : State} (h : s.pending = []) : step s = .next s := by
  rw [step, h]

theorem step_of_pending {s : State} {r : Request} {rest : List Request} (h : s.pending = r :: rest) :
    step s = exec (decode r) (takeRequest r rest s) := by
  rw [step, h]

/-- A presented request with a response is answered, and the host's other requests stay as they are. -/
theorem step_present_of_blockFunction {r : Request} {p : Response} (h : blockFunction r = some p) (s : State) :
    step (present r s) = .next { s with issued := s.issued ++ [r], responses := s.responses ++ [p] } :=
  step_of_blockFunction (present_pending r s) h

/-! ### The invariant of matched responses (R24, R181) -/

/-- A request issued with the block's answer to it keeps the responses matched. -/
theorem responsesMatch_append {s t : State} (hs : ResponsesMatch s) {rs : List Request} {ps : List Response}
    (hanswers : rs.map blockFunction = ps.map some) (hissued : t.issued = s.issued ++ rs)
    (hresponses : t.responses = s.responses ++ ps) : ResponsesMatch t := by
  rw [ResponsesMatch, hissued, hresponses, List.map_append, List.map_append, hs, hanswers]

/-! ### The invariant of legal responses (R87, R106) -/

theorem encodeForm_encwfResponse {k : BitVec 2} (hk : k ≠ 0) (b0 b1 b2 : Byte) :
    EncodeForm (encwfResponse k b0 b1 b2) := by
  rw [EncodeForm, rspN_encwfResponse, rspLane3_encwfResponse, rspLane2_encwfResponse, rspLane1_encwfResponse,
    rspLane0_encwfResponse]
  refine ⟨isSymbol_sym _, isSymbol_sym _, ?_⟩
  rcases legal_count_cases hk with rfl | rfl | rfl
  · exact .inr (.inr ⟨rfl, rfl, rfl⟩)
  · exact .inr (.inl ⟨rfl, isSymbol_sym _, rfl⟩)
  · exact .inl ⟨rfl, isSymbol_sym _, isSymbol_sym _⟩

theorem decodeForm_decwResponse (c0 c1 c2 c3 : Character) : DecodeForm (decwResponse c0 c1 c2 c3) := by
  obtain h | ⟨y0, h⟩ | ⟨y0, y1, h⟩ | ⟨y0, y1, y2, h⟩ := decwResponse_shape c0 c1 c2 c3
  · simp [h, DecodeForm]
  · simp [h, DecodeForm]
  · simp [h, DecodeForm]
  · simp [h, DecodeForm]

/-- Every response the block gives has one of the two forms. -/
theorem form_of_responseOf {i : Instr} {p : Response} (h : responseOf i = some p) : EncodeForm p ∨ DecodeForm p := by
  cases i with
  | encw b0 b1 b2 =>
    cases h
    exact .inl (encodeForm_encwfResponse (k := 3) (by decide) b0 b1 b2)
  | encwf k b0 b1 b2 =>
    by_cases hk : k = 0
    · cases (if_pos hk).symm.trans h
    · cases (if_neg hk).symm.trans h
      exact .inl (encodeForm_encwfResponse hk b0 b1 b2)
  | decw c0 c1 c2 c3 =>
    cases h
    exact .inr (decodeForm_decwResponse c0 c1 c2 c3)

/-! ### Runs of a host that keeps O3 (R174, R182) -/

theorem run_succ_of_step {s t : State} (h : step s = .next t) (k : Nat) : core.run (k + 1) s = core.run k t := by
  have hcore : core.step s = .next t := h
  simp only [Host.Core.run, hcore]

/-- One step of a host that keeps O3: at the end of its list nothing happens, and before it the first request is
answered and the rest is as obedient. -/
theorem step_of_hostObeysO3 {s : State} (h : HostObeysO3 s) :
    (s.pending = [] ∧ step s = .next s) ∨
    ∃ r rest p, s.pending = r :: rest ∧ blockFunction r = some p ∧
      step s = .next { pending := rest, issued := s.issued ++ [r], responses := s.responses ++ [p] } ∧
      ∀ r' ∈ rest, isReserved r' = false := by
  cases hs : s.pending with
  | nil => exact .inl ⟨rfl, step_of_no_pending hs⟩
  | cons r rest =>
    obtain ⟨hr, hrest⟩ := List.forall_mem_cons.mp (hs ▸ h : ∀ r' ∈ r :: rest, isReserved r' = false)
    obtain ⟨p, hp⟩ := exists_response_of_not_reserved hr
    exact .inr ⟨r, rest, p, rfl, hp, step_of_blockFunction hs hp, hrest⟩

/-- Running a list of requests that have responses answers them in order. -/
theorem run_of_hostObeysO3 (pending issued : List Request) (responses : List Response)
    (h : ∀ r ∈ pending, isReserved r = false) : ∃ ps : List Response,
      pending.map blockFunction = ps.map some ∧
      core.run pending.length { pending, issued, responses } =
        .next { pending := [], issued := issued ++ pending, responses := responses ++ ps } := by
  induction pending generalizing issued responses with
  | nil => exact ⟨[], rfl, by simp [Host.Core.run]⟩
  | cons r rest ih =>
    obtain ⟨hr, hrest⟩ := List.forall_mem_cons.mp h
    obtain ⟨p, hp⟩ := exists_response_of_not_reserved hr
    obtain ⟨ps, hanswers, hrun⟩ := ih (issued ++ [r]) (responses ++ [p]) hrest
    refine ⟨p :: ps, ?_, ?_⟩
    · rw [List.map_cons, List.map_cons, hp, hanswers]
    · rw [List.length_cons, run_succ_of_step (step_of_blockFunction rfl hp), hrun, List.append_assoc,
        List.append_assoc, List.singleton_append, List.singleton_append]

/-! ### The obligations -/

/-- Settles O36: a step changes nothing, or adds one request together with the block's answer to it. -/
theorem everyStepKeepsResponsesMatched : Obligations.EveryStepKeepsResponsesMatched := by
  intro s t hs hstep
  obtain ⟨-, rfl⟩ | ⟨r, rest, p, -, hp, rfl⟩ := step_next_cases hstep
  · exact hs
  · exact responsesMatch_append hs (rs := [r]) (ps := [p]) (congrArg ([·]) hp) rfl rfl

/-- Settles O37: a step changes nothing, or adds one response of the block, which has one of the two forms. -/
theorem everyStepKeepsResponsesLegal : Obligations.EveryStepKeepsResponsesLegal := by
  intro s t hs hstep
  obtain ⟨-, rfl⟩ | ⟨r, rest, p, -, hp, rfl⟩ := step_next_cases hstep
  · exact hs
  · exact List.forall_mem_append.mpr ⟨hs, List.forall_mem_singleton.mpr (form_of_responseOf hp)⟩

/-- Settles O38: no request has been issued and no response taken. -/
theorem resetMeetsTheInvariants : Obligations.ResetMeetsTheInvariants :=
  ⟨rfl, List.forall_mem_nil _⟩

/-- Settles O29: a request is answered or has no response, and it has none exactly when it is reserved. -/
theorem stepAnswersOrRefuses : Obligations.StepAnswersOrRefuses := by
  intro r s
  simp only [ne_eq, reservedMask_iff, ← blockFunction_eq_none_iff]
  cases hr : blockFunction r with
  | none =>
    rw [step_present_of_no_response hr]
    exact ⟨fun h => absurd rfl h, fun e => by simp [eq_comm], fun e h => by cases h⟩
  | some p =>
    rw [step_present_of_blockFunction hr]
    exact ⟨fun _ => ⟨p, rfl⟩, fun e => by simp, fun e h => by cases h⟩

/-- Settles O30: the first pending request is taken and its operation evaluated. -/
theorem stepRunsTheDecodedOperation : Obligations.StepRunsTheDecodedOperation :=
  fun _ _ _ hs => step_of_pending hs

/-- Settles O31: no request is presented, so neither port has a value. -/
theorem stepWithoutRequestChangesNothing : Obligations.StepWithoutRequestChangesNothing := by
  intro s hs
  have hreq : reqPort s = none := by rw [reqPort, hs, List.head?_nil]
  exact ⟨step_of_no_pending hs, hreq, by rw [rspPort, hreq, Option.bind_none]⟩

/-- Settles O32: placing a word presents it, and the step takes the presented word. -/
theorem placedWordIsTheNextRequest : Obligations.PlacedWordIsTheNextRequest := by
  intro s r
  exact ⟨decodeTableWord_toNat r, by rw [withFetchWord_eq_present, step_of_pending (present_pending r s)]; rfl⟩

/-- Settles O35: nothing is pending after reset, so neither port has a value, and a presented request is answered as in
any state. -/
theorem resetLeavesNothingAndTheFirstRequestIsOrdinary :
    Obligations.ResetLeavesNothingAndTheFirstRequestIsOrdinary := by
  obtain ⟨-, hreq, hrsp⟩ := stepWithoutRequestChangesNothing State.reset reset_pending
  exact ⟨reset_pending, reset_issued, reset_responses, hreq, hrsp,
    fun _ _ hp => step_present_of_blockFunction hp State.reset⟩

/-- Settles O39: none of the requests is reserved, so each is answered in its turn. -/
theorem programIsAnsweredRequestByRequest : Obligations.ProgramIsAnsweredRequestByRequest :=
  fun s hs => run_of_hostObeysO3 s.pending s.issued s.responses hs

/-- Settles O40: by induction on the number of steps, each of which completes and leaves an obedient host. -/
theorem obedientHostIsNeverStopped : Obligations.ObedientHostIsNeverStopped := by
  intro k
  induction k with
  | zero => exact fun s hs => ⟨s, rfl, hs⟩
  | succ k ih =>
    intro s hs
    obtain ⟨-, hstep⟩ | ⟨r, rest, p, -, -, hstep, hrest⟩ := step_of_hostObeysO3 hs
    · rw [run_succ_of_step hstep]
      exact ih s hs
    · rw [run_succ_of_step hstep]
      exact ih _ hrest

end Sys2Proof.Machine
end

section
/-! PROOFS. The laws of 40_alphabet_rom.md that tie the two tables together (R76), and the statements of
41_word_encoder.md about the split of a group (R80) and the final group (R83). A character that is valid and not `=` is
the symbol of its value, and every four 6-bit values are the split of the bytes they pack to. -/

namespace Sys2Proof.Machine

/-! ### A symbol and its value (R76) -/

theorem sym_setWidth_val {c : Character} (h : isSymbol c = true) : sym ((val c).setWidth 6) = c := by
  revert c; decide

/-- A symbol is the symbol of some 6-bit value. -/
theorem exists_sym_of_isSymbol {c : Character} (h : isSymbol c = true) : ∃ v, sym v = c :=
  ⟨_, sym_setWidth_val h⟩

/-- The characters that are not invalid are the symbols and `=` (R73, R75). -/
theorem isInvalid_eq_false_iff (c : Character) : isInvalid c = false ↔ isSymbol c = true ∨ c = padChar := by
  constructor
  · intro h
    by_cases hp : c = padChar
    · exact .inr hp
    · exact .inl (isSymbol_of_valid c h hp)
  · rintro (h | rfl)
    · exact isInvalid_of_isSymbol c h
    · exact isInvalid_padChar

theorem val_ne_invalid_iff (c : Character) : val c ≠ 0xFF#8 ↔ isInvalid c = false := by
  rw [ne_eq, ← isInvalid_iff, Bool.not_eq_true]

theorem val_le_of_ne_invalid {c : Character} (h : val c ≠ 0xFF#8) : val c ≤ 0x3F :=
  val_le_of_valid c ((val_ne_invalid_iff c).mp h)

theorem ne_padChar_of_isSymbol {c : Character} (h : isSymbol c = true) : c ≠ padChar := by
  rintro rfl
  exact absurd h (by decide)

/-- A symbol with the value 0 is `A`, and `=` has that value too. -/
theorem val_eq_zero_iff (c : Character) : val c = 0#8 ↔ c = padChar ∨ c = 0x41#8 := by
  revert c; decide

/-! ### The split of a group (R80) -/

/-- A slice of six bits is a shift and a mask. -/
theorem setWidth_extractLsb'_six (w : Group24) (k : Nat) :
    (w.extractLsb' k 6).setWidth 24 = (w >>> k) &&& 0x3F#24 := by
  have hmask : (0x3F#24).toNat = 2 ^ 6 - 1 := by decide
  have hlt : (w.toNat >>> k) % 2 ^ 6 < 2 ^ 24 := Nat.lt_trans (Nat.mod_lt _ (by decide)) (by decide)
  apply BitVec.eq_of_toNat_eq
  rw [BitVec.toNat_setWidth, BitVec.extractLsb'_toNat, Nat.mod_eq_of_lt hlt, BitVec.toNat_and, hmask,
    Nat.and_two_pow_sub_one_eq_mod, BitVec.toNat_ushiftRight]

/-- The four slices side by side are the group. -/
theorem sextets_append (w : Group24) : sextet0 w ++ sextet1 w ++ sextet2 w ++ sextet3 w = w := by
  unfold sextet0 sextet1 sextet2 sextet3
  simp only [BitVec.extractLsb'_append_extractLsb'_eq_extractLsb']
  exact BitVec.extractLsb'_eq_self

section GroupBits

variable (b0 b1 b2 : Byte)

theorem sextet0_group24 : sextet0 (group24 b0 b1 b2) = b0.extractLsb' 2 6 := by
  change BitVec.extractLsb' 18 6 (b0 ++ b1 ++ b2) = b0.extractLsb' 2 6
  rw [BitVec.extractLsb'_append_eq_of_le (by decide), BitVec.extractLsb'_append_eq_of_le (by decide)]

theorem sextet1_group24 : sextet1 (group24 b0 b1 b2) = b0.extractLsb' 0 2 ++ b1.extractLsb' 4 4 := by
  have hhigh : BitVec.extractLsb' 16 2 (b0 ++ b1 ++ b2) = b0.extractLsb' 0 2 := by
    rw [BitVec.extractLsb'_append_eq_of_le (by decide), BitVec.extractLsb'_append_eq_of_le (by decide)]
  have hlow : BitVec.extractLsb' 12 4 (b0 ++ b1 ++ b2) = b1.extractLsb' 4 4 := by
    rw [BitVec.extractLsb'_append_eq_of_le (by decide), BitVec.extractLsb'_append_eq_of_add_le (by decide)]
  rw [← hhigh, ← hlow]
  exact (BitVec.extractLsb'_append_extractLsb'_eq_extractLsb' (start₁ := 12) (len₁ := 4) rfl).symm

theorem sextet2_group24 : sextet2 (group24 b0 b1 b2) = b1.extractLsb' 0 4 ++ b2.extractLsb' 6 2 := by
  have hhigh : BitVec.extractLsb' 8 4 (b0 ++ b1 ++ b2) = b1.extractLsb' 0 4 := by
    rw [BitVec.extractLsb'_append_eq_of_le (by decide), BitVec.extractLsb'_append_eq_of_add_le (by decide)]
  have hlow : BitVec.extractLsb' 6 2 (b0 ++ b1 ++ b2) = b2.extractLsb' 6 2 := by
    rw [BitVec.extractLsb'_append_eq_of_add_le (by decide)]
  rw [← hhigh, ← hlow]
  exact (BitVec.extractLsb'_append_extractLsb'_eq_extractLsb' (start₁ := 6) (len₁ := 2) rfl).symm

theorem sextet3_group24 : sextet3 (group24 b0 b1 b2) = b2.extractLsb' 0 6 := by
  change BitVec.extractLsb' 0 6 (b0 ++ b1 ++ b2) = b2.extractLsb' 0 6
  rw [BitVec.extractLsb'_append_eq_of_add_le (by decide)]

end GroupBits

/-! ### Every four 6-bit values are the split of the bytes they pack to (R80, R104) -/

/-- Packing the four groups of a split gives the group back. -/
theorem group24_sextets (w : Group24) :
    group24 (byte0 ((sextet0 w).setWidth 8) ((sextet1 w).setWidth 8))
      (byte1 ((sextet1 w).setWidth 8) ((sextet2 w).setWidth 8))
      (byte2 ((sextet2 w).setWidth 8) ((sextet3 w).setWidth 8)) = w := by
  rw [byte0_sextets, byte1_sextets, byte2_sextets]
  unfold group24
  simp only [BitVec.extractLsb'_append_extractLsb'_eq_extractLsb']
  exact BitVec.extractLsb'_eq_self

theorem exists_group_of_sextets (v0 v1 v2 v3 : Sextet) :
    ∃ w : Group24, sextet0 w = v0 ∧ sextet1 w = v1 ∧ sextet2 w = v2 ∧ sextet3 w = v3 := by
  refine ⟨v0 ++ v1 ++ v2 ++ v3, ?_, ?_, ?_, ?_⟩
  · change BitVec.extractLsb' 18 6 (v0 ++ v1 ++ v2 ++ v3) = v0
    rw [BitVec.extractLsb'_append_eq_of_le (by decide), BitVec.extractLsb'_append_eq_of_le (by decide),
      BitVec.extractLsb'_append_eq_left]
  · change BitVec.extractLsb' 12 6 (v0 ++ v1 ++ v2 ++ v3) = v1
    rw [BitVec.extractLsb'_append_eq_of_le (by decide), BitVec.extractLsb'_append_eq_of_le (by decide),
      BitVec.extractLsb'_append_eq_right]
  · change BitVec.extractLsb' 6 6 (v0 ++ v1 ++ v2 ++ v3) = v2
    rw [BitVec.extractLsb'_append_eq_of_le (by decide), BitVec.extractLsb'_append_eq_right]
  · exact BitVec.extractLsb'_append_eq_right

/-- The symbols of the bytes that four 6-bit values pack to are the symbols of those values. -/
theorem encwfResponse_bytes (k : BitVec 2) (v0 v1 v2 v3 : Sextet) :
    encwfResponse k (byte0 (v0.setWidth 8) (v1.setWidth 8)) (byte1 (v1.setWidth 8) (v2.setWidth 8))
        (byte2 (v2.setWidth 8) (v3.setWidth 8)) =
      encodeResponse k (sym v0) (sym v1) (if k = 1 then padChar else sym v2)
        (if k = 1 ∨ k = 2 then padChar else sym v3) := by
  obtain ⟨w, rfl, rfl, rfl, rfl⟩ := exists_group_of_sextets v0 v1 v2 v3
  simp only [encwfResponse, group24_sextets, substitute, padsThird_iff, padsFourth_iff]

/-! ### The response of a final group (R83) -/

theorem encwfResponse_eq_append (k : BitVec 2) (b0 b1 b2 : Byte) :
    encwfResponse k b0 b1 b2 =
      k ++ sym (sextet0 (group24 b0 b1 b2)) ++ sym (sextet1 (group24 b0 b1 b2)) ++
        (if k = 1 then 0x3D#8 else sym (sextet2 (group24 b0 b1 b2))) ++
        (if k = 1 ∨ k = 2 then 0x3D#8 else sym (sextet3 (group24 b0 b1 b2))) := by
  simp only [encwfResponse, encodeResponse, substitute, packResponse_lanes, padsThird_iff, padsFourth_iff]
  rfl

/-- A request of the row of `ENCWF` with a legal count is answered from its low 24 bits and its count. -/
theorem blockFunction_of_encwf_row {r : Request} (hop : reqOp r = 0) (hfinal : reqFinal r = 1)
    (hn : reqNreal r ≠ 0) :
    blockFunction r = some (r.extractLsb' 32 2 ++ sym (r.extractLsb' 18 6) ++ sym (r.extractLsb' 12 6) ++
      (if r.extractLsb' 32 2 = 1#2 then 0x3D#8 else sym (r.extractLsb' 6 6)) ++
      (if r.extractLsb' 32 2 = 1#2 ∨ r.extractLsb' 32 2 = 2#2 then 0x3D#8 else sym (r.extractLsb' 0 6))) := by
  rw [blockFunction, decode_of_encwf_row hop hfinal, responseOf, if_neg hn, encwfResponse_eq_append, group24_fields]
  unfold sextet0 sextet1 sextet2 sextet3
  iterate 4 rw [BitVec.extractLsb'_extractLsb'_of_le (by decide)]
  rfl

/-- A 6-bit value whose low four bits are zero has one of four symbols. -/
theorem sym_append_zero_mem (x : BitVec 2) : sym (x ++ 0#4) ∈ [0x41#8, 0x51#8, 0x67#8, 0x77#8] := by
  revert x; decide

/-- A 6-bit value whose low two bits are zero is a multiple of 4. -/
theorem val_sym_append_zero_and (x : BitVec 4) : val (sym (x ++ 0#2)) &&& 3#8 = 0 := by
  revert x; decide

/-! ### The obligations -/

/-- Settles O12: the laws of the two tables, each read off the table or derived from the classification of the
characters. -/
theorem lookupsAreMutuallyInverse : Obligations.LookupsAreMutuallyInverse := by
  refine ⟨val_sym, fun c => sym_setWidth_val, ?_, ?_, val_eq_zero_iff, by decide⟩
  · intro c
    by_cases h : val c = 0xFF#8
    · exact .inr h
    · exact .inl (val_le_of_ne_invalid h)
  · intro c
    rw [val_ne_invalid_iff, isInvalid_eq_false_iff]
    rfl

/-- Settles O13: each slice of the 24 bits falls into one byte or two. -/
theorem bitShufflerSplitsTheGroup : Obligations.BitShufflerSplitsTheGroup := by
  rintro b0 b1 b2 w rfl
  exact ⟨rfl, rfl, rfl, rfl, setWidth_extractLsb'_six _ 18, setWidth_extractLsb'_six _ 12,
    setWidth_extractLsb'_six _ 6, setWidth_extractLsb'_six _ 0, sextet0_group24 b0 b1 b2, sextet1_group24 b0 b1 b2,
    sextet2_group24 b0 b1 b2, sextet3_group24 b0 b1 b2, sextets_append _⟩

/-- Settles O15: the response word is the count and the characters the count keeps; with zeros beyond the real bytes the
last kept 6-bit value ends in zeros. -/
theorem encwfPadsFromTheCount : Obligations.EncwfPadsFromTheCount := by
  refine ⟨?_, ?_, ?_, ?_, ?_, exec_of_responseOf (by decide), exec_of_responseOf (by decide),
    exec_of_responseOf (by decide), exec_of_responseOf (by decide), exec_of_responseOf (by decide),
    exec_of_responseOf (by decide)⟩
  · rintro k b0 b1 b2 w s hk rfl
    rw [encwf_answers hk, encwfResponse_eq_append]
    rfl
  · intro r s hrow hn
    obtain ⟨hop, hfinal⟩ := (encwfRow_iff r).mp hrow
    exact step_present_of_blockFunction (blockFunction_of_encwf_row hop hfinal hn) s
  · intro b0 b1 b2 s
    rw [encwf_answers (by decide), encw_answers, encwResponse_eq_encwfResponse]
  · intro b0
    refine ⟨_, encwf_answers (by decide) b0 0 0, ?_⟩
    rw [rspLane2_encwfResponse, sextet1_group24]
    exact sym_append_zero_mem (b0.extractLsb' 0 2)
  · intro b0 b1
    refine ⟨_, encwf_answers (by decide) b0 b1 0, ?_⟩
    rw [rspLane1_encwfResponse, if_neg (by decide), sextet2_group24]
    exact val_sym_append_zero_and (b1.extractLsb' 0 4)

end Sys2Proof.Machine
end

section
/-! PROOFS. The statements of 42_word_decoder.md: the inverse packing (R104), the discarded bits (R109) and the closed form
of the count (R111). A valid value is a 6-bit value in eight bits, so what is said of the packing of 6-bit values holds
of it. -/

namespace Sys2Proof.Machine

/-! ### Valid values (R72, R104) -/

/-- A value up to 0x3F is a 6-bit value in eight bits. -/
theorem exists_setWidth_of_le {v : Byte} (h : v ≤ 0x3F) : ∃ u : Sextet, u.setWidth 8 = v := by
  have hlt : v.toNat < 2 ^ 6 := Nat.lt_succ_of_le (BitVec.le_def.mp h)
  refine ⟨v.setWidth 6, BitVec.eq_of_toNat_eq ?_⟩
  rw [BitVec.toNat_setWidth, BitVec.toNat_setWidth, Nat.mod_eq_of_lt hlt, Nat.mod_eq_of_lt v.isLt]

/-- A slice within a value in eight bits is the slice of the value. -/
theorem extractLsb'_setWidth {k len : Nat} (h : k + len ≤ 8) (u : Sextet) :
    (u.setWidth 8).extractLsb' k len = u.extractLsb' k len := by
  ext i hi
  have hi8 : k + i < 8 := by omega
  simp [hi8]

/-! ### The bits that the packing discards (R109) -/

/-- The first byte has of the second value the bits 5:4 only. -/
theorem byte0_congr {v1 v1' : Byte} (h : v1 ≤ 0x3F) (h' : v1' ≤ 0x3F)
    (heq : v1.extractLsb' 4 2 = v1'.extractLsb' 4 2) (v0 : Byte) : byte0 v0 v1 = byte0 v0 v1' := by
  have hshift : ∀ v : Byte, v ≤ 0x3F → v >>> 4 = (v.extractLsb' 4 2).setWidth 8 := by decide
  rw [byte0, byte0, hshift v1 h, hshift v1' h', heq]

/-- The second byte has of the third value the bits 5:2 only. -/
theorem byte1_congr {v2 v2' : Byte} (h : v2 ≤ 0x3F) (h' : v2' ≤ 0x3F)
    (heq : v2.extractLsb' 2 4 = v2'.extractLsb' 2 4) (v1 : Byte) : byte1 v1 v2 = byte1 v1 v2' := by
  have hshift : ∀ v : Byte, v ≤ 0x3F → v >>> 2 = (v.extractLsb' 2 4).setWidth 8 := by decide
  rw [byte1, byte1, hshift v2 h, hshift v2' h', heq]

theorem decwResponse_pad_third_congr {c1 c1' : Character} (h : val c1 ≠ 0xFF#8) (h' : val c1' ≠ 0xFF#8)
    (heq : (val c1).extractLsb' 4 2 = (val c1').extractLsb' 4 2) (c0 c3 : Character) :
    decwResponse c0 c1 padChar c3 = decwResponse c0 c1' padChar c3 := by
  by_cases h0 : val c0 = 0xFF#8
  · rw [decwResponse_of_invalid_front (.inl h0), decwResponse_of_invalid_front (.inl h0)]
  · rw [decwResponse_of_pad_third h0 h rfl, decwResponse_of_pad_third h0 h' rfl,
      byte0_congr (val_le_of_ne_invalid h) (val_le_of_ne_invalid h') heq]

theorem decwResponse_pad_fourth_congr {c2 c2' : Character} (h : isSymbol c2 = true) (h' : isSymbol c2' = true)
    (heq : (val c2).extractLsb' 2 4 = (val c2').extractLsb' 2 4) (c0 c1 : Character) :
    decwResponse c0 c1 c2 padChar = decwResponse c0 c1 c2' padChar := by
  have hvalid : ∀ {c}, isSymbol c = true → val c ≠ 0xFF#8 := fun hc =>
    (val_ne_invalid_iff _).mpr (isInvalid_of_isSymbol _ hc)
  by_cases hfront : val c0 = 0xFF#8 ∨ val c1 = 0xFF#8
  · rw [decwResponse_of_invalid_front hfront, decwResponse_of_invalid_front hfront]
  · obtain ⟨h0, h1⟩ := not_or.mp hfront
    rw [decwResponse_of_pad_fourth h0 h1 (ne_padChar_of_isSymbol h) (hvalid h) rfl,
      decwResponse_of_pad_fourth h0 h1 (ne_padChar_of_isSymbol h') (hvalid h') rfl,
      byte1_congr (val_le_of_ne_invalid (hvalid h)) (val_le_of_ne_invalid (hvalid h')) heq]

/-! ### The count in closed form (R111) -/

/-- The closed form of the count (R111). -/
theorem rspN_decwResponse (c0 c1 c2 c3 : Character) :
    rspN (decwResponse c0 c1 c2 c3) =
      if isInvalid c0 ∨ isInvalid c1 then 0
      else if c2 = padChar then 1
      else if isInvalid c2 then 0
      else if c3 = padChar then 2
      else if isInvalid c3 then 0
      else 3 := by
  simp only [decwResponse, Bool.or_eq_true, apply_ite rspN, rspN_decodeResponse, rspN_failResponse]

/-- All three bytes are produced exactly when four valid characters stand there and no padding (R111). -/
theorem rspN_decwResponse_eq_three_iff (c0 c1 c2 c3 : Character) :
    rspN (decwResponse c0 c1 c2 c3) = 3 ↔
      isInvalid c0 = false ∧ isInvalid c1 = false ∧ isInvalid c2 = false ∧ isInvalid c3 = false ∧
        c2 ≠ padChar ∧ c3 ≠ padChar := by
  rw [rspN_decwResponse]
  split_ifs with hfront hpad2 h2 hpad3 h3
  · refine iff_of_false (by decide) ?_
    rintro ⟨h0, h1, -⟩
    simp [h0, h1] at hfront
  · exact iff_of_false (by decide) fun ⟨_, _, _, _, hne, _⟩ => hne hpad2
  · exact iff_of_false (by decide) fun ⟨_, _, hvalid, _⟩ => by simp [hvalid] at h2
  · exact iff_of_false (by decide) fun ⟨_, _, _, _, _, hne⟩ => hne hpad3
  · exact iff_of_false (by decide) fun ⟨_, _, _, hvalid, _⟩ => by simp [hvalid] at h3
  · rw [not_or] at hfront
    simp [hfront, h2, h3, hpad2, hpad3]

/-! ### The obligations -/

/-- Settles O22: a valid value is a 6-bit value in eight bits, and four of them are the split of the group they pack
to. -/
theorem inversePackingUndoesTheSplit : Obligations.InversePackingUndoesTheSplit := by
  refine ⟨?_, group24_sextets⟩
  intro v0 v1 v2 v3 h0 h1 h2 h3
  obtain ⟨u0, rfl⟩ := exists_setWidth_of_le h0
  obtain ⟨u1, rfl⟩ := exists_setWidth_of_le h1
  obtain ⟨u2, rfl⟩ := exists_setWidth_of_le h2
  obtain ⟨u3, rfl⟩ := exists_setWidth_of_le h3
  obtain ⟨w, rfl, rfl, rfl, rfl⟩ := exists_group_of_sextets u0 u1 u2 u3
  have hpack := (group24_sextets w).trans (sextets_append w).symm
  iterate 8 rw [extractLsb'_setWidth (by decide)]
  simp only [BitVec.extractLsb'_eq_self]
  exact ⟨byte0_setWidth _ _, byte1_setWidth _ _, byte2_setWidth _ _, hpack⟩

/-- Settles O26: each byte produced looks at its values only through the bits it keeps. -/
theorem discardedBitsAreNotChecked : Obligations.DiscardedBitsAreNotChecked := by
  refine ⟨?_, ?_, exec_of_responseOf (by decide), exec_of_responseOf (by decide)⟩
  · intro c0 c1 c1' c3 s h h' heq
    exact congrArg (respond · s) (decwResponse_pad_third_congr h h' heq c0 c3)
  · intro c0 c1 c2 c2' s h h' heq
    exact congrArg (respond · s) (decwResponse_pad_fourth_congr h h' heq c0 c1)

/-- Settles O27: the tests of a group give its count, which is 3 at the end of all of them only. -/
theorem countOfBytesInClosedForm : Obligations.CountOfBytesInClosedForm := by
  intro c0 c1 c2 c3
  exact ⟨decwResponse c0 c1 c2 c3, decw_answers c0 c1 c2 c3, rspN_decwResponse c0 c1 c2 c3,
    rspN_decwResponse_eq_three_iff c0 c1 c2 c3⟩

end Sys2Proof.Machine
end

section
/-! PROOFS. The statements of 41_word_encoder.md section 5 about the two word operations together (R88): different
groups have different responses, the decoder returns the real bytes, and the encoder returns a group without padding. -/

namespace Sys2Proof.Machine

/-! ### The data of an encode response as a group to decode (R88) -/

/-- The four characters of an encode response, as a group of text. -/
def TextGroup.ofResponse (p : Response) : TextGroup := ⟨rspLane3 p, rspLane2 p, rspLane1 p, rspLane0 p⟩

/-- The decode request made of a response's data is the request of its group. -/
theorem decodeRequest_eq_encode (p : Response) : 8#4 ++ rspQ p = encode (TextGroup.ofResponse p).instr := by
  have hq : rspQ p = lanes (rspLane3 p) (rspLane2 p) (rspLane1 p) (rspLane0 p) := by
    unfold lanes rspQ rspLane3 rspLane2 rspLane1 rspLane0
    simp only [BitVec.extractLsb'_append_extractLsb'_eq_extractLsb']
  rw [hq, lanes]
  change _ = 8#4 ++ rspLane3 p ++ rspLane2 p ++ rspLane1 p ++ rspLane0 p
  simp only [BitVec.append_assoc, BitVec.cast_eq]

/-- The decoder gives the count and the real bytes of a final group back, and zeros for the others (R85, R88). -/
theorem response_ofResponse_encwfResponse {k : BitVec 2} (hk : k ≠ 0) (b0 b1 b2 : Byte) :
    (TextGroup.ofResponse (encwfResponse k b0 b1 b2)).response =
      decodeResponse k b0 (if k = 1 then 0 else b1) (if k = 3 then b2 else 0) :=
  decwResponse_encwfResponse hk b0 b1 b2

theorem response_ofResponse_encwResponse (b0 b1 b2 : Byte) :
    (TextGroup.ofResponse (encwResponse b0 b1 b2)).response = decodeResponse 3 b0 b1 b2 :=
  decwResponse_encwfResponse (k := 3) (by decide) b0 b1 b2

theorem decodeResponse_inj {n n' : BitVec 2} {y0 y0' y1 y1' y2 y2' : Byte} :
    decodeResponse n y0 y1 y2 = decodeResponse n' y0' y1' y2' ↔ n = n' ∧ y0 = y0' ∧ y1 = y1' ∧ y2 = y2' := by
  constructor
  · intro h
    refine ⟨?_, ?_, ?_, ?_⟩
    · simpa only [rspN_decodeResponse] using congrArg rspN h
    · simpa only [rspLane2_decodeResponse] using congrArg rspLane2 h
    · simpa only [rspLane1_decodeResponse] using congrArg rspLane1 h
    · simpa only [rspLane0_decodeResponse] using congrArg rspLane0 h
  · rintro ⟨rfl, rfl, rfl, rfl⟩
    rfl

/-- The decoder tells the responses of different byte groups apart (R88 item 3). -/
theorem encwResponse_inj {b0 b1 b2 b0' b1' b2' : Byte} :
    encwResponse b0 b1 b2 = encwResponse b0' b1' b2' ↔ b0 = b0' ∧ b1 = b1' ∧ b2 = b2' := by
  constructor
  · intro h
    have hdecoded := congrArg (fun p => (TextGroup.ofResponse p).response) h
    simp only [response_ofResponse_encwResponse, decodeResponse_inj] at hdecoded
    exact hdecoded.2
  · rintro ⟨rfl, rfl, rfl⟩
    rfl

/-- An encode request followed by the decode request of its response's data records that response and then the real
bytes (R88 item 4). -/
theorem step_encode_then_decode {i : Instr} {k : BitVec 2} (hk : k ≠ 0) {b0 b1 b2 : Byte}
    (hi : responseOf i = some (encwfResponse k b0 b1 b2)) (s : State) :
    ∃ p t, step (present (encode i) s) = .next t ∧ t.responses = s.responses ++ [p] ∧
      ∃ u, step (present (8#4 ++ rspQ p) t) = .next u ∧
        u.responses = s.responses ++ [p, k ++ 0#8 ++ b0 ++ (if k = 1 then 0#8 else b1) ++
          (if k = 3 then b2 else 0#8)] := by
  have hencode : blockFunction (encode i) = some (encwfResponse k b0 b1 b2) := by rw [blockFunction_encode, hi]
  have hdecode : blockFunction (8#4 ++ rspQ (encwfResponse k b0 b1 b2)) =
      some (decodeResponse k b0 (if k = 1 then 0 else b1) (if k = 3 then b2 else 0)) := by
    rw [decodeRequest_eq_encode, blockFunction_encode, ← response_ofResponse_encwfResponse hk]
    rfl
  refine ⟨encwfResponse k b0 b1 b2, _, step_present_of_blockFunction hencode s, rfl, _,
    step_present_of_blockFunction hdecode _, ?_⟩
  rw [decodeResponse_eq_append]
  exact List.append_assoc ..

/-! ### Encoding a decoded group (R88 item 5) -/

/-- An operation has one response, the same in every state. -/
theorem answers_iff {i : Instr} {p : Response} : Answers i p ↔ responseOf i = some p := by
  constructor
  · intro h
    obtain ⟨p', hp', heq⟩ := exec_next_cases (h State.reset)
    have hp : p = p' := by simpa using heq
    rw [hp, hp']
  · exact fun h => exec_of_responseOf h

/-- Two encode responses with the same count are equal exactly when their characters are. -/
theorem encodeResponse_inj {n : BitVec 2} {s0 s0' s1 s1' s2 s2' s3 s3' : Character} :
    encodeResponse n s0 s1 s2 s3 = encodeResponse n s0' s1' s2' s3' ↔
      s0 = s0' ∧ s1 = s1' ∧ s2 = s2' ∧ s3 = s3' := by
  constructor
  · intro h
    refine ⟨?_, ?_, ?_, ?_⟩
    · simpa only [encodeResponse, rspLane3_packResponse] using congrArg rspLane3 h
    · simpa only [encodeResponse, rspLane2_packResponse] using congrArg rspLane2 h
    · simpa only [encodeResponse, rspLane1_packResponse] using congrArg rspLane1 h
    · simpa only [encodeResponse, rspLane0_packResponse] using congrArg rspLane0 h
  · rintro ⟨rfl, rfl, rfl, rfl⟩
    rfl

/-- The characters of a full group are symbols (R87). -/
theorem isSymbol_of_encwResponse_eq {b0 b1 b2 : Byte} {c0 c1 c2 c3 : Character}
    (h : encwResponse b0 b1 b2 = encodeResponse 3 c0 c1 c2 c3) :
    isSymbol c0 = true ∧ isSymbol c1 = true ∧ isSymbol c2 = true ∧ isSymbol c3 = true := by
  obtain ⟨rfl, rfl, rfl, rfl⟩ := encodeResponse_inj.mp h
  exact ⟨isSymbol_sym _, isSymbol_sym _, isSymbol_sym _, isSymbol_sym _⟩

/-- A group of four symbols is returned by encoding its bytes. -/
theorem encwResponse_decwResponse_of_symbols {c0 c1 c2 c3 : Character} (h0 : isSymbol c0 = true)
    (h1 : isSymbol c1 = true) (h2 : isSymbol c2 = true) (h3 : isSymbol c3 = true) :
    encwResponse (rspLane2 (decwResponse c0 c1 c2 c3)) (rspLane1 (decwResponse c0 c1 c2 c3))
      (rspLane0 (decwResponse c0 c1 c2 c3)) = encodeResponse 3 c0 c1 c2 c3 := by
  obtain ⟨v0, rfl⟩ := exists_sym_of_isSymbol h0
  obtain ⟨v1, rfl⟩ := exists_sym_of_isSymbol h1
  obtain ⟨v2, rfl⟩ := exists_sym_of_isSymbol h2
  obtain ⟨v3, rfl⟩ := exists_sym_of_isSymbol h3
  rw [decwResponse_four_symbols, rspLane2_decodeResponse, rspLane1_decodeResponse, rspLane0_decodeResponse,
    encwResponse_eq_encwfResponse, encwfResponse_bytes]
  rfl

/-! ### The obligations -/

/-- Settles O18: the decoder tells the two responses apart. -/
theorem encwIsInjective : Obligations.EncwIsInjective := by
  intro b0 b1 b2 b0' b1' b2'
  exact ⟨_, _, encw_answers b0 b1 b2, encw_answers b0' b1' b2', encwResponse_inj⟩

/-- Settles O19: both operations are answered as a final group, `ENCW` as one of three real bytes. -/
theorem wordRoundTripReturnsTheRealBytes : Obligations.WordRoundTripReturnsTheRealBytes := by
  intro s b0 b1 b2
  refine ⟨?_, fun k hk => ?_⟩
  · exact step_encode_then_decode (i := .encw b0 b1 b2) (k := 3) (by decide) rfl s
  · exact step_encode_then_decode (i := .encwf k b0 b1 b2) hk (if_neg hk) s

/-- Settles O20: the encoder gives symbols only, and four symbols are returned. -/
theorem reencodingReturnsOnlyUnpaddedGroups : Obligations.ReencodingReturnsOnlyUnpaddedGroups := by
  intro c0 c1 c2 c3
  refine ⟨decwResponse c0 c1 c2 c3, decw_answers c0 c1 c2 c3, ?_⟩
  rw [answers_iff, responseOf, Option.some_inj, ← packResponse_lanes, ← encodeResponse]
  constructor
  · intro h
    obtain ⟨h0, h1, h2, h3⟩ := isSymbol_of_encwResponse_eq h
    have hne : ∀ {c}, isSymbol c = true → c ≠ padChar := ne_padChar_of_isSymbol
    exact ⟨(rspN_decwResponse_eq_three_iff c0 c1 c2 c3).mpr ⟨isInvalid_of_isSymbol c0 h0, isInvalid_of_isSymbol c1 h1,
      isInvalid_of_isSymbol c2 h2, isInvalid_of_isSymbol c3 h3, hne h2, hne h3⟩, hne h0, hne h1, hne h2, hne h3⟩
  · rintro ⟨hn, hne0, hne1, hne2, hne3⟩
    obtain ⟨h0, h1, h2, h3, -⟩ := (rspN_decwResponse_eq_three_iff c0 c1 c2 c3).mp hn
    exact encwResponse_decwResponse_of_symbols (isSymbol_of_valid c0 h0 hne0) (isSymbol_of_valid c1 h1 hne1)
      (isSymbol_of_valid c2 h2 hne2) (isSymbol_of_valid c3 h3 hne3)

end Sys2Proof.Machine
end

section
/-! PROOFS. The statements of 43_host_sequences.md about whole calls: the length check (R129), that `decode` always
completes (R128, R134), and the two round trips (R136). The text that `encode` returns is written as the groups of its
responses: each group gives its bytes back, and a canonical text is such a text. -/

namespace Sys2Proof.Machine

/-! ### Every text is decoded to its end (R128, R134) -/

/-- A text that passes the length check is a list of groups (R129). -/
theorem exists_charactersOf : ∀ text : List Character, text.length % 4 = 0 → ∃ gs, charactersOf gs = text
  | [], _ => ⟨[], rfl⟩
  | c0 :: c1 :: c2 :: c3 :: rest, h => by
    have hrest : rest.length % 4 = 0 := by simp only [List.length_cons] at h; omega
    obtain ⟨gs, hgs⟩ := exists_charactersOf rest hrest
    exact ⟨⟨c0, c1, c2, c3⟩ :: gs, by rw [charactersOf_cons, hgs]⟩
  | [_], h => by simp at h
  | [_, _], h => by simp at h
  | [_, _, _], h => by simp at h

/-- The pass over a list of groups completes, with some of them issued and answered. -/
theorem decodeGroups_completes (gs : List TextGroup) (s : State) (bytes : List Byte) :
    ∃ (issued : List TextGroup) (result : DecodeResult),
      decodeGroups (charactersOf gs) s bytes = .next (afterGroups issued s, result) := by
  induction gs generalizing s bytes with
  | nil => exact ⟨[], .decoded bytes bytes.length, by rw [decodeGroups_nil, afterGroups_nil]⟩
  | cons g gs ih =>
    rw [decodeGroups_cons]
    split_ifs
    · exact ⟨[g], _, rfl⟩
    · exact ⟨[g], _, rfl⟩
    · obtain ⟨issued, result, hpass⟩ := ih (afterGroups [g] s) (bytes ++ responseBytes g.response)
      exact ⟨[g] ++ issued, result, by rw [hpass, afterGroups_afterGroups]⟩

/-- A text of another length is turned away before any request (R129). -/
theorem decodeCompacted_of_length {text : List Character} (h : text.length % 4 ≠ 0) (s : State) :
    decodeCompacted text s = .next (s, .failed .invalidLength) :=
  if_neg h

/-- Whatever the text, its decoding completes, with some groups issued and answered. -/
theorem decodeCompacted_completes (text : List Character) (s : State) :
    ∃ (issued : List TextGroup) (result : DecodeResult),
      decodeCompacted text s = .next (afterGroups issued s, result) := by
  by_cases h : text.length % 4 = 0
  · obtain ⟨gs, rfl⟩ := exists_charactersOf text h
    rw [decodeCompacted_charactersOf]
    exact decodeGroups_completes gs s []
  · exact ⟨[], .failed .invalidLength, by rw [decodeCompacted_of_length h, afterGroups_nil]⟩

/-- Issued groups have the block's answers to their requests (R24). -/
theorem responsesMatch_afterGroups {s : State} (h : ResponsesMatch s) (gs : List TextGroup) :
    ResponsesMatch (afterGroups gs s) := by
  refine responsesMatch_append h (rs := gs.map fun g => encode g.instr) (ps := gs.map TextGroup.response) ?_ rfl rfl
  rw [List.map_map, List.map_map]
  exact List.map_congr_left fun g _ => blockFunction_encode g.instr

/-! ### The text of `encode`, as groups (R124 to R126) -/

/-- The groups of the text that a buffer is encoded to: the characters of its responses. -/
def encodedGroups : List Byte → List TextGroup
  | [] => []
  | [b0] => [.ofResponse (encwfResponse 1 b0 0 0)]
  | [b0, b1] => [.ofResponse (encwfResponse 2 b0 b1 0)]
  | b0 :: b1 :: b2 :: rest => .ofResponse (encwResponse b0 b1 b2) :: encodedGroups rest

theorem charactersOf_ofResponse_cons (p : Response) (gs : List TextGroup) :
    charactersOf (.ofResponse p :: gs) = responseCharacters p ++ charactersOf gs := rfl

/-- The Encoder's pass appends these groups to the text. -/
theorem encodeGroups_eq (bytes : List Byte) (s : State) (text : List Character) :
    ∃ t, encodeGroups bytes s text = .next (t, text ++ charactersOf (encodedGroups bytes)) := by
  induction bytes, s, text using encodeGroups.induct with
  | case1 s text => exact ⟨s, by simp [encodeGroups, encodedGroups, charactersOf]⟩
  | case2 b0 s text => exact ⟨_, issueEncode_of_responseOf rfl s text⟩
  | case3 b0 b1 s text => exact ⟨_, issueEncode_of_responseOf rfl s text⟩
  | case4 b0 b1 b2 rest s text ih =>
    obtain ⟨t, hpass⟩ := ih { s with
      issued := s.issued ++ [encode (.encw b0 b1 b2)]
      responses := s.responses ++ [encwResponse b0 b1 b2] } (text ++ responseCharacters (encwResponse b0 b1 b2))
    refine ⟨t, ?_⟩
    rw [encodeGroups_cons, hpass, encodedGroups, charactersOf_ofResponse_cons, List.append_assoc]

theorem hostEncode_eq (bytes : List Byte) (s : State) :
    ∃ t, hostEncode bytes s = .next (t, encodeResultOf (charactersOf (encodedGroups bytes))) := by
  obtain ⟨t, hpass⟩ := encodeGroups_eq bytes s []
  exact ⟨t, by rw [hostEncode, hpass, andThen_next, List.nil_append]⟩

/-- The terminator stands after the text and is not counted (R127). -/
theorem take_encodeResultOf (text : List Character) :
    (encodeResultOf text).buffer.take (encodeResultOf text).length = text :=
  List.take_left

/-! ### Encoded text holds no whitespace (R87, R121) -/

theorem isWhitespace_padChar : isWhitespace padChar = false := by decide

theorem isWhitespace_of_isSymbol {c : Character} (h : isSymbol c = true) : isWhitespace c = false := by
  revert c; decide

/-- The characters of an encode response are symbols and `=`. -/
theorem isWhitespace_responseCharacters_encwfResponse (k : BitVec 2) (b0 b1 b2 : Byte) :
    ∀ c ∈ responseCharacters (encwfResponse k b0 b1 b2), isWhitespace c = false := by
  have hsym : ∀ v, isWhitespace (sym v) = false := fun v => isWhitespace_of_isSymbol (isSymbol_sym v)
  simp only [responseCharacters, rspLane3_encwfResponse, rspLane2_encwfResponse, rspLane1_encwfResponse,
    rspLane0_encwfResponse, List.forall_mem_cons]
  refine ⟨hsym _, hsym _, ?_, ?_, List.forall_mem_nil _⟩
  · split_ifs
    · exact isWhitespace_padChar
    · exact hsym _
  · split_ifs
    · exact isWhitespace_padChar
    · exact hsym _

theorem isWhitespace_of_mem_encodedGroups (bytes : List Byte) :
    ∀ c ∈ charactersOf (encodedGroups bytes), isWhitespace c = false := by
  induction bytes using encodedGroups.induct with
  | case1 => exact List.forall_mem_nil _
  | case2 b0 => exact isWhitespace_responseCharacters_encwfResponse 1 b0 0 0
  | case3 b0 b1 => exact isWhitespace_responseCharacters_encwfResponse 2 b0 b1 0
  | case4 b0 b1 b2 rest ih =>
    exact List.forall_mem_append.mpr ⟨isWhitespace_responseCharacters_encwfResponse 3 b0 b1 b2, ih⟩

theorem filterWhitespace_encodedGroups (bytes : List Byte) :
    filterWhitespace (charactersOf (encodedGroups bytes)) = charactersOf (encodedGroups bytes) :=
  List.filter_eq_self.mpr fun c hc => by rw [isWhitespace_of_mem_encodedGroups bytes c hc, Bool.not_false]

/-! ### Decoding the encoded groups (R130, R133, R136 item 1) -/

/-- The last group of a text gives its bytes unless it fails (R131). -/
theorem decodeGroups_last {g : TextGroup} (h : rspN g.response ≠ 0) (s : State) (bytes : List Byte) :
    decodeGroups (charactersOf [g]) s bytes =
      .next (afterGroups [g] s,
        .decoded (bytes ++ responseBytes g.response) (bytes ++ responseBytes g.response).length) := by
  rw [decodeGroups_cons, if_neg h, if_neg (fun hshort => hshort.2 rfl), decodeGroups_nil]

theorem responseBytes_decodeResponse (n : BitVec 2) (y0 y1 y2 : Byte) :
    responseBytes (decodeResponse n y0 y1 y2) = [y0, y1, y2].take n.toNat := by
  rw [responseBytes, rspN_decodeResponse, rspLane2_decodeResponse, rspLane1_decodeResponse, rspLane0_decodeResponse]

/-- The group of a final encode response gives the real bytes. -/
theorem responseBytes_ofResponse_encwfResponse {k : BitVec 2} (hk : k ≠ 0) (b0 b1 b2 : Byte) :
    responseBytes (TextGroup.ofResponse (encwfResponse k b0 b1 b2)).response = [b0, b1, b2].take k.toNat := by
  rw [response_ofResponse_encwfResponse hk, responseBytes_decodeResponse]
  rcases legal_count_cases hk with rfl | rfl | rfl
  · rfl
  · rfl
  · rfl

theorem rspN_ofResponse_encwfResponse {k : BitVec 2} (hk : k ≠ 0) (b0 b1 b2 : Byte) :
    rspN (TextGroup.ofResponse (encwfResponse k b0 b1 b2)).response = k := by
  rw [response_ofResponse_encwfResponse hk, rspN_decodeResponse]

/-- As the last group of a text, it adds the real bytes to those so far. -/
theorem decodeGroups_ofResponse_encwfResponse {k : BitVec 2} (hk : k ≠ 0) (b0 b1 b2 : Byte) (s : State)
    (acc : List Byte) :
    ∃ u, decodeGroups (charactersOf [.ofResponse (encwfResponse k b0 b1 b2)]) s acc =
      .next (u, .decoded (acc ++ [b0, b1, b2].take k.toNat) (acc ++ [b0, b1, b2].take k.toNat).length) := by
  rw [decodeGroups_last (by rwa [rspN_ofResponse_encwfResponse hk]), responseBytes_ofResponse_encwfResponse hk]
  exact ⟨_, rfl⟩

/-- The pass over the encoded groups of a buffer gives the buffer. -/
theorem decodeGroups_encodedGroups (bytes : List Byte) (s : State) (acc : List Byte) :
    ∃ u, decodeGroups (charactersOf (encodedGroups bytes)) s acc =
      .next (u, .decoded (acc ++ bytes) (acc ++ bytes).length) := by
  induction bytes using encodedGroups.induct generalizing s acc with
  | case1 => exact ⟨s, by rw [encodedGroups, decodeGroups_nil, List.append_nil]⟩
  | case2 b0 => exact decodeGroups_ofResponse_encwfResponse (k := 1) (by decide) b0 0 0 s acc
  | case3 b0 b1 => exact decodeGroups_ofResponse_encwfResponse (k := 2) (by decide) b0 b1 0 s acc
  | case4 b0 b1 b2 rest ih =>
    have hfull := rspN_ofResponse_encwfResponse (k := 3) (by decide) b0 b1 b2
    have hbytes := responseBytes_ofResponse_encwfResponse (k := 3) (by decide) b0 b1 b2
    obtain ⟨u, hpass⟩ := ih (afterGroups [.ofResponse (encwfResponse 3 b0 b1 b2)] s) (acc ++ [b0, b1, b2])
    refine ⟨u, ?_⟩
    rw [encodedGroups, encwResponse_eq_encwfResponse, decodeGroups_cons_of_full hfull, hbytes]
    refine hpass.trans ?_
    rw [List.append_assoc]
    rfl

theorem decodeCompacted_encodedGroups (bytes : List Byte) (s : State) :
    ∃ u, decodeCompacted (charactersOf (encodedGroups bytes)) s = .next (u, .decoded bytes bytes.length) := by
  rw [decodeCompacted_charactersOf]
  exact decodeGroups_encodedGroups bytes s []

/-! ### Canonical text is encoded text (R136 item 2) -/

theorem ofResponse_encodeResponse (n : BitVec 2) (s0 s1 s2 s3 : Character) :
    TextGroup.ofResponse (encodeResponse n s0 s1 s2 s3) = ⟨s0, s1, s2, s3⟩ := by
  rw [TextGroup.ofResponse, encodeResponse, rspLane3_packResponse, rspLane2_packResponse, rspLane1_packResponse,
    rspLane0_packResponse]

/-- Four symbols are the characters of a full group of bytes. -/
theorem exists_bytes_of_fullGroup {c0 c1 c2 c3 : Character} (h : fullGroup c0 c1 c2 c3 = true) :
    ∃ b0 b1 b2, TextGroup.ofResponse (encwResponse b0 b1 b2) = ⟨c0, c1, c2, c3⟩ := by
  simp only [fullGroup, Bool.and_eq_true] at h
  obtain ⟨⟨⟨h0, h1⟩, h2⟩, h3⟩ := h
  exact ⟨_, _, _, by rw [encwResponse_decwResponse_of_symbols h0 h1 h2 h3, ofResponse_encodeResponse]⟩

/-- Three symbols and `=`, the discarded bits zero, are the characters of two real bytes. -/
theorem exists_bytes_of_one_pad {c0 c1 c2 : Character} (h0 : isSymbol c0 = true) (h1 : isSymbol c1 = true)
    (h2 : isSymbol c2 = true) (hzero : val c2 &&& 0x03 = 0) :
    ∃ b0 b1, TextGroup.ofResponse (encwfResponse 2 b0 b1 0) = ⟨c0, c1, c2, padChar⟩ := by
  obtain ⟨v0, rfl⟩ := exists_sym_of_isSymbol h0
  obtain ⟨v1, rfl⟩ := exists_sym_of_isSymbol h1
  obtain ⟨v2, rfl⟩ := exists_sym_of_isSymbol h2
  have hbyte2 : byte2 (v2.setWidth 8) ((0 : Sextet).setWidth 8) = 0 := by
    rw [byte2, ← val_sym, hzero]; decide
  refine ⟨byte0 (v0.setWidth 8) (v1.setWidth 8), byte1 (v1.setWidth 8) (v2.setWidth 8), ?_⟩
  rw [← hbyte2, encwfResponse_bytes, ofResponse_encodeResponse]
  rfl

/-- Two symbols and `=` twice, the discarded bits zero, are the characters of one real byte. -/
theorem exists_byte_of_two_pads {c0 c1 : Character} (h0 : isSymbol c0 = true) (h1 : isSymbol c1 = true)
    (hzero : val c1 &&& 0x0F = 0) :
    ∃ b0, TextGroup.ofResponse (encwfResponse 1 b0 0 0) = ⟨c0, c1, padChar, padChar⟩ := by
  obtain ⟨v0, rfl⟩ := exists_sym_of_isSymbol h0
  obtain ⟨v1, rfl⟩ := exists_sym_of_isSymbol h1
  have hbyte1 : byte1 (v1.setWidth 8) ((0 : Sextet).setWidth 8) = 0 := by
    rw [byte1, ← val_sym, hzero]; decide
  have hbyte2 : byte2 ((0 : Sextet).setWidth 8) ((0 : Sextet).setWidth 8) = 0 := by decide
  refine ⟨byte0 (v0.setWidth 8) (v1.setWidth 8), ?_⟩
  have hsplit := encwfResponse_bytes 1 v0 v1 0 0
  rw [hbyte1, hbyte2] at hsplit
  rw [hsplit, ofResponse_encodeResponse]
  rfl

/-- A canonical last group is the last group of an encoded text. -/
theorem exists_bytes_of_canonicalLastGroup {c0 c1 c2 c3 : Character} (h : canonicalLastGroup c0 c1 c2 c3 = true) :
    ∃ bytes, encodedGroups bytes = [⟨c0, c1, c2, c3⟩] := by
  simp only [canonicalLastGroup, Bool.or_eq_true, Bool.and_eq_true, beq_iff_eq] at h
  obtain (hfull | ⟨⟨⟨⟨h0, h1⟩, h2⟩, rfl⟩, hzero⟩) | ⟨⟨⟨⟨h0, h1⟩, rfl⟩, rfl⟩, hzero⟩ := h
  · obtain ⟨b0, b1, b2, hgroup⟩ := exists_bytes_of_fullGroup hfull
    exact ⟨[b0, b1, b2], by rw [encodedGroups, encodedGroups, hgroup]⟩
  · obtain ⟨b0, b1, hgroup⟩ := exists_bytes_of_one_pad h0 h1 h2 hzero
    exact ⟨[b0, b1], by rw [encodedGroups, hgroup]⟩
  · obtain ⟨b0, hgroup⟩ := exists_byte_of_two_pads h0 h1 hzero
    exact ⟨[b0], by rw [encodedGroups, hgroup]⟩

/-- A group that is not the last of a canonical text is full. -/
theorem canonicalText_cons {rest : List Character} (h : rest ≠ []) (c0 c1 c2 c3 : Character) :
    canonicalText (c0 :: c1 :: c2 :: c3 :: rest) = (fullGroup c0 c1 c2 c3 && canonicalText rest) := by
  cases rest with
  | nil => exact absurd rfl h
  | cons c rest => rfl

theorem exists_bytes_of_canonicalText {text : List Character} (h : canonicalText text = true) :
    ∃ bytes, charactersOf (encodedGroups bytes) = text := by
  induction text using canonicalText.induct with
  | case1 => exact ⟨[], rfl⟩
  | case2 c0 c1 c2 c3 =>
    obtain ⟨bytes, hgroup⟩ := exists_bytes_of_canonicalLastGroup h
    exact ⟨bytes, by rw [hgroup]; rfl⟩
  | case3 c0 c1 c2 c3 rest hrest ih =>
    rw [canonicalText_cons hrest, Bool.and_eq_true] at h
    obtain ⟨hfull, hcanonical⟩ := h
    obtain ⟨b0, b1, b2, hgroup⟩ := exists_bytes_of_fullGroup hfull
    obtain ⟨bytes, hbytes⟩ := ih hcanonical
    exact ⟨b0 :: b1 :: b2 :: bytes, by rw [encodedGroups, hgroup, charactersOf_cons, hbytes]⟩
  | case4 text hnil hlast hcons =>
    simp [canonicalText] at h

/-! ### The obligations -/

/-- Settles O43: the length is looked at first, and the empty text has nothing to issue. -/
theorem lengthIsCheckedBeforeAnyRequest : Obligations.LengthIsCheckedBeforeAnyRequest := by
  intro buffer length s
  refine ⟨fun h => decodeCompacted_of_length h s, fun h => ?_⟩
  rw [hostDecode, h]
  rfl

/-- Settles O47: the groups issued are added to the state, each with the block's answer to it, and nothing else
changes. -/
theorem hostDecoderAlwaysCompletes : Obligations.HostDecoderAlwaysCompletes := by
  intro buffer length s
  obtain ⟨issued, result, hpass⟩ := decodeCompacted_completes (filterWhitespace (buffer.take length)) s
  exact ⟨afterGroups issued s, result, hpass, rfl, List.prefix_append .., fun h => responsesMatch_afterGroups h issued⟩

/-- Settles O48: the text is the encoded groups, which hold no whitespace and give their bytes back. -/
theorem decodeOfEncodeReturnsTheBuffer : Obligations.DecodeOfEncodeReturnsTheBuffer := by
  intro bytes s
  obtain ⟨t, hencode⟩ := hostEncode_eq bytes s
  refine ⟨t, _, hencode, ?_, fun spaced s' hspaced => ?_⟩
  · rw [hostDecode, take_encodeResultOf, filterWhitespace_encodedGroups]
    exact decodeCompacted_encodedGroups bytes t
  · rw [hostDecode_length, hspaced, take_encodeResultOf]
    exact decodeCompacted_encodedGroups bytes s'

/-- Settles O49: a canonical text is the encoded groups of some buffer, which decoding returns. -/
theorem encodeOfDecodeReturnsCanonicalText : Obligations.EncodeOfDecodeReturnsCanonicalText := by
  intro text s hcanonical
  obtain ⟨bytes, htext⟩ := exists_bytes_of_canonicalText hcanonical
  obtain ⟨t, hdecode⟩ := decodeCompacted_encodedGroups bytes s
  obtain ⟨u, hencode⟩ := hostEncode_eq bytes t
  refine ⟨t, u, bytes, _, ?_, hencode, ?_⟩
  · rw [hostDecode_length, ← htext, hdecode]
  · rw [take_encodeResultOf, htext]

end Sys2Proof.Machine
end

section
/-! PROOFS. The statements of 30_encoding.md about text (R61): words as nine digits, and the assembler's lines. Digits
are read back by induction on their number; a line is read token by token, and what may stand after its last operand is
one condition on the rest of the line. -/

namespace Sys2Proof.Machine

/-! ### Digits read back (R61) -/

theorem hexValue_hexDigit : ∀ n < 16, hexValue (hexDigit n) = some n := by decide

theorem readDigits_append (base : Nat) (value : Char → Option Nat) (acc : Nat) (cs ds : List Char) :
    readDigits base value acc (cs ++ ds) =
      (readDigits base value acc cs).bind fun a => readDigits base value a ds := by
  induction cs generalizing acc with
  | nil => rfl
  | cons c cs ih => simp only [List.cons_append, readDigits, ih, Option.bind_assoc]

/-- The digits written are read back behind the number so far. -/
theorem readDigits_writeDigits (n acc w : Nat) :
    readDigits 16 hexValue acc (writeDigits n w) = some (acc * 16 ^ n + w % 16 ^ n) := by
  induction n generalizing w with
  | zero => simp [writeDigits, readDigits, Nat.mod_one]
  | succ n ih =>
    have hdigit : hexValue (hexDigit (w % 16)) = some (w % 16) := hexValue_hexDigit _ (Nat.mod_lt _ (by decide))
    have hvalue : 16 * (acc * 16 ^ n + w / 16 % 16 ^ n) + w % 16 = acc * 16 ^ (n + 1) + w % 16 ^ (n + 1) := by
      rw [Nat.pow_succ', Nat.mod_mul]
      ring
    rw [writeDigits, readDigits_append, ih, Option.bind_some, readDigits, hdigit, Option.bind_some, readDigits, hvalue]

theorem length_writeDigits (n w : Nat) : (writeDigits n w).length = n := by
  induction n generalizing w with
  | zero => rfl
  | succ n ih => rw [writeDigits, List.length_append, ih, List.length_singleton]

/-- The first digit is the most significant one. -/
theorem head?_writeDigits_succ (n w : Nat) : (writeDigits (n + 1) w).head? = some (hexDigit (w / 16 ^ n % 16)) := by
  induction n generalizing w with
  | zero => simp [writeDigits]
  | succ n ih =>
    rw [writeDigits, List.head?_append, ih, Option.some_or, Nat.div_div_eq_div_mul, ← Nat.pow_succ']

/-- Nine digits hold every word of 36 bits. -/
theorem readDigits_nine {w : Nat} (h : w < 2 ^ 36) : readDigits 16 hexValue 0 (writeDigits 9 w) = some w := by
  have hdigits : w < 16 ^ 9 := lt_of_lt_of_eq h (by decide)
  rw [readDigits_writeDigits, Nat.zero_mul, Nat.zero_add, Nat.mod_eq_of_lt hdigits]

/-- The first of a response's nine digits is the two bits above the data. -/
theorem toNat_rspN (p : Response) : (rspN p).toNat = p.toNat / 16 ^ 8 % 16 := by
  have hp : p.toNat < 2 ^ 34 := p.isLt
  rw [rspN, BitVec.extractLsb'_toNat, Nat.shiftRight_eq_div_pow]
  omega

/-! ### Numbers as operands (R61) -/

theorem readNumber_writeByte (b : Byte) : readNumber (writeByte b) = some b.toNat := by
  have hb : b.toNat < 16 ^ 2 := b.isLt
  have hread := readDigits_writeDigits 2 0 b.toNat
  rw [Nat.zero_mul, Nat.zero_add, Nat.mod_eq_of_lt hb] at hread
  exact hread

theorem operandOf_writeByte (b : Byte) : operandOf (.word (writeByte b)) = some b := by
  rw [operandOf, readNumber_writeByte, Option.bind_some, if_pos b.isLt, BitVec.ofNat_toNat, BitVec.setWidth_eq]

/-! ### Words of a line (R61, log entry 7) -/

theorem endsWord_eq_false_iff (c : Char) :
    endsWord c = false ↔ isBlank c = false ∧ isQuote c = false ∧ c ≠ ',' ∧ c ≠ ';' := by
  simp [endsWord, and_assoc]

theorem endsWord_hexDigit : ∀ n < 16, endsWord (hexDigit n) = false := by decide

theorem endsWord_of_mem_writeDigits (n w : Nat) : ∀ c ∈ writeDigits n w, endsWord c = false := by
  induction n generalizing w with
  | zero => exact List.forall_mem_nil _
  | succ n ih =>
    exact List.forall_mem_append.mpr
      ⟨ih (w / 16), List.forall_mem_singleton.mpr (endsWord_hexDigit _ (Nat.mod_lt _ (by decide)))⟩

theorem endsWord_of_mem_writeByte (b : Byte) : ∀ c ∈ writeByte b, endsWord c = false :=
  List.forall_mem_cons.mpr ⟨by decide, List.forall_mem_cons.mpr ⟨by decide, endsWord_of_mem_writeDigits 2 b.toNat⟩⟩

/-- A character that ends no word begins one. -/
theorem lex_between_cons {c : Char} (h : endsWord c = false) (cs : List Char) :
    lex .between (c :: cs) = lex (.inWord [c]) cs := by
  obtain ⟨hblank, hquote, hcomma, hsemicolon⟩ := (endsWord_eq_false_iff c).mp h
  simp [lex, hblank, hquote, hcomma, hsemicolon]

/-- A character that ends no word goes on with it. -/
theorem lex_inWord_cons {c : Char} (h : endsWord c = false) (w cs : List Char) :
    lex (.inWord w) (c :: cs) = lex (.inWord (w ++ [c])) cs := by
  obtain ⟨hblank, hquote, hcomma, hsemicolon⟩ := (endsWord_eq_false_iff c).mp h
  simp [lex, hblank, hquote, hcomma, hsemicolon]

theorem lex_inWord_append {cs : List Char} (h : ∀ c ∈ cs, endsWord c = false) (w rest : List Char) :
    lex (.inWord w) (cs ++ rest) = lex (.inWord (w ++ cs)) rest := by
  induction cs generalizing w with
  | nil => rw [List.nil_append, List.append_nil]
  | cons c cs ih =>
    obtain ⟨hc, hcs⟩ := List.forall_mem_cons.mp h
    rw [List.cons_append, lex_inWord_cons hc, ih hcs, List.append_assoc, List.singleton_append]

/-- A word is read whole. -/
theorem lex_between_append {cs : List Char} (hne : cs ≠ []) (h : ∀ c ∈ cs, endsWord c = false) (rest : List Char) :
    lex .between (cs ++ rest) = lex (.inWord cs) rest := by
  cases cs with
  | nil => exact absurd rfl hne
  | cons c cs =>
    obtain ⟨hc, hcs⟩ := List.forall_mem_cons.mp h
    rw [List.cons_append, lex_between_cons hc, lex_inWord_append hcs, List.singleton_append]

theorem lex_between_space (cs : List Char) : lex .between (' ' :: cs) = lex .between cs := by
  simp [lex, isBlank]

theorem lex_inWord_space (w cs : List Char) :
    lex (.inWord w) (' ' :: cs) = (lex .between cs).map (.word w :: ·) := by
  simp [lex, isBlank]

theorem lex_inWord_comma (w cs : List Char) :
    lex (.inWord w) (',' :: cs) = (lex .between cs).map fun ts => .word w :: .comma :: ts := by
  simp [lex]

/-! ### Lines (R61) -/

/-- The rest of a line that holds no further token after a word. -/
def EndsLine (rest : List Char) : Prop := ∀ w, lex (.inWord w) rest = some [.word w]

theorem endsLine_nil : EndsLine [] := fun _ => by rw [lex]

theorem endsLine_comment (comment : List Char) : EndsLine (' ' :: ';' :: comment) := by
  intro w
  rw [lex_inWord_space]
  simp [lex]

/-- The tokens of written operands. -/
def operandTokens : List Byte → List Token
  | [] => []
  | [b] => [.word (writeByte b)]
  | b :: bs => .word (writeByte b) :: .comma :: operandTokens bs

theorem operandTokens_cons (b b' : Byte) (bs : List Byte) :
    operandTokens (b :: b' :: bs) = .word (writeByte b) :: .comma :: operandTokens (b' :: bs) := rfl

theorem writeOperands_cons (b b' : Byte) (bs : List Byte) :
    writeOperands (b :: b' :: bs) = writeByte b ++ ',' :: ' ' :: writeOperands (b' :: bs) := rfl

theorem lex_writeByte (b : Byte) (rest : List Char) :
    lex .between (writeByte b ++ rest) = lex (.inWord (writeByte b)) rest :=
  lex_between_append (List.cons_ne_nil _ _) (endsWord_of_mem_writeByte b) rest

theorem lex_writeOperands {rest : List Char} (hrest : EndsLine rest) (b : Byte) (bs : List Byte) :
    lex .between (writeOperands (b :: bs) ++ rest) = some (operandTokens (b :: bs)) := by
  induction bs generalizing b with
  | nil => exact (lex_writeByte b rest).trans (hrest _)
  | cons b' bs ih =>
    rw [writeOperands_cons, List.append_assoc, lex_writeByte, List.cons_append, List.cons_append, lex_inWord_comma,
      lex_between_space, ih, Option.map_some, operandTokens_cons]

theorem operandsOf_operandTokens (b : Byte) (bs : List Byte) :
    operandsOf (operandTokens (b :: bs)) = some (b :: bs) := by
  induction bs generalizing b with
  | nil => rw [operandTokens, operandsOf, operandOf_writeByte]; rfl
  | cons b' bs ih => rw [operandTokens_cons, operandsOf, operandOf_writeByte, Option.bind_some, ih, Option.map_some]

/-- No written operand is quoted. -/
theorem unquoted_operandTokens (b : Byte) (bs : List Byte) : (operandTokens (b :: bs)).all unquoted = true := by
  induction bs generalizing b with
  | nil => rfl
  | cons b' bs ih => rw [operandTokens_cons, List.all_cons, List.all_cons, ih]; rfl

theorem numbersOf_operandTokens (b : Byte) (bs : List Byte) :
    numbersOf (operandTokens (b :: bs)) = some (b :: bs) := by
  rw [numbersOf, if_pos (unquoted_operandTokens b bs), operandsOf_operandTokens]

theorem assembleDecw_operandTokens (c0 c1 c2 c3 : Character) :
    assembleDecw (operandTokens [c0, c1, c2, c3]) = some (.decw c0 c1 c2 c3) := by
  have hoperands := operandsOf_operandTokens c0 [c1, c2, c3]
  rw [operandTokens_cons] at hoperands ⊢
  simp only [assembleDecw, hoperands]

/-- A mnemonic, a space and written operands are the mnemonic's word and the operands' tokens. -/
theorem assembleLine_of_tokens {mnemonic rest : List Char} (hne : mnemonic ≠ [])
    (hword : ∀ c ∈ mnemonic, endsWord c = false) (hrest : EndsLine rest) {b : Byte} {bs : List Byte} {i : Instr}
    (hi : assembleTokens mnemonic (operandTokens (b :: bs)) = some i) :
    assembleLine (mnemonic ++ ' ' :: (writeOperands (b :: bs) ++ rest)) = .operation i := by
  rw [assembleLine, lex_between_append hne hword, lex_inWord_space, lex_writeOperands hrest, Option.map_some]
  simp only [hi]

/-- An operation that is well-formed reads back from its text, whatever ends the line. -/
theorem assembleLine_writeInstr {i : Instr} (hwf : WellFormed i) {rest : List Char} (hrest : EndsLine rest) :
    assembleLine (writeInstr i ++ rest) = .operation i := by
  cases i with
  | encw b0 b1 b2 =>
    refine assembleLine_of_tokens (mnemonic := ['E', 'N', 'C', 'W']) (by decide)
      (by simp [endsWord, isBlank, isQuote]) hrest ?_
    simp [assembleTokens, numbersOf_operandTokens]
  | encwf k b0 b1 b2 =>
    refine assembleLine_of_tokens (mnemonic := ['E', 'N', 'C', 'W', 'F']) (by decide)
      (by simp [endsWord, isBlank, isQuote]) hrest ?_
    have hk : k ≠ 0 := bne_iff_ne.mp hwf
    rcases legal_count_cases hk with rfl | rfl | rfl
    · simp [assembleTokens, numbersOf_operandTokens, assembleEncwf]
    · simp [assembleTokens, numbersOf_operandTokens, assembleEncwf]
    · simp [assembleTokens, numbersOf_operandTokens, assembleEncwf]
  | decw c0 c1 c2 c3 =>
    refine assembleLine_of_tokens (mnemonic := ['D', 'E', 'C', 'W']) (by decide)
      (by simp [endsWord, isBlank, isQuote]) hrest ?_
    simp [assembleTokens, assembleDecw_operandTokens]

/-! ### The obligations -/

/-- Settles O8: an operation reads back from its text whatever ends the line, and both nothing and a comment do. -/
theorem assemblerReadsWhatIsWritten : Obligations.AssemblerReadsWhatIsWritten := by
  intro i comment hwf
  refine ⟨?_, assembleLine_writeInstr hwf (endsLine_comment comment)⟩
  simpa only [List.append_nil] using assembleLine_writeInstr hwf endsLine_nil

/-- Settles O9: nine digits hold both words, and the first digit of a response is above its data. -/
theorem wordsAreWrittenAsNineDigits : Obligations.WordsAreWrittenAsNineDigits := by
  refine ⟨fun r => ⟨length_writeDigits 9 _, readDigits_nine r.isLt⟩, fun p => ⟨length_writeDigits 9 _, ?_, ?_⟩⟩
  · exact readDigits_nine (Nat.lt_trans p.isLt (by decide))
  · rw [responseDigits, head?_writeDigits_succ, toNat_rspN]

end Sys2Proof.Machine
end
